-- ==== Sys2Proof/Word.lean ====
section
/-! DEFINITION. The widths the spec gives: bytes, 32-bit words and 64-bit command words (00_scope R5, R7). -/

namespace Sys2Proof

/-- `bits8`: a data byte, a byte of a type code, a STATUS or a LEN field (R7). -/
abbrev Byte := BitVec 8

/-- `bits32`: CRC_REG, a type word, or a RESULT (R7). -/
abbrev Word := BitVec 32

/-- CMD[63:0], one command word in the CMD64 format (30_encoding R60). -/
abbrev CmdWord := BitVec 64

end Sys2Proof
end

