-- ==== Sys2Proof/Syntax.lean ====
section
/-! DEFINITION. The twelve commands of spec/opcode_table.json (30_encoding R65, R66), with the fields R67 passes. -/

namespace Sys2Proof

/-- One constructor for each row of the opcode table; an operand has the width of its field. -/
inductive Instr where
  /-- CRC_START (41 R145). -/
  | crcStart
  /-- CRC_BYTE with b = ARG[7:0] (41 R146). -/
  | crcByte (b : Byte)
  /-- CRC_FINAL (41 R147). -/
  | crcFinal
  /-- TYPE_LOAD with a type word (40 R102). -/
  | typeLoad (arg : Word)
  /-- TYPE_LOADS with the saturated string length and the string's type word (40 R103). -/
  | typeLoads (len : Byte) (arg : Word)
  /-- TYPE_READ (40 R104). -/
  | typeRead
  /-- TYPE_EQ with a type word (40 R105). -/
  | typeEq (arg : Word)
  /-- TYPE_ISVALID (40 R106). -/
  | typeIsvalid
  /-- TYPE_ISCRIT (40 R107). -/
  | typeIscrit
  /-- TYPE_ISPUB (40 R108). -/
  | typeIspub
  /-- TYPE_ISRSV (40 R109). -/
  | typeIsrsv
  /-- TYPE_ISSAFE (40 R110). -/
  | typeIssafe
deriving DecidableEq, Repr

end Sys2Proof
end

