-- ==== Sys2Proof/WellFormed.lean ====
section
/-! DEFINITION. Well-formed command words, field by field from the prose of R60, R63, R65 and R68 (the decoder
reads the match and mask columns of R66 instead), and the operands the assembler of R73 writes. Every value of
`Instr` is a command of the block: an operand has exactly its field's width, and R62 and R63 admit every value. -/

namespace Sys2Proof

/-- OPC = CMD[63:56] (R60). -/
def opcField (w : CmdWord) : Byte := w.extractLsb' 56 8
/-- LEN = CMD[55:48] (R60). -/
def lenField (w : CmdWord) : Byte := w.extractLsb' 48 8
/-- RSV = CMD[47:32] (R60). -/
def rsvField (w : CmdWord) : BitVec 16 := w.extractLsb' 32 16
/-- ARG = CMD[31:0] (R60). -/
def argField (w : CmdWord) : Word := w.extractLsb' 0 32

/-- The twelve opcodes of R65. -/
def assignedOpcodes : List Byte :=
  [0x01#8, 0x02#8, 0x03#8, 0x10#8, 0x11#8, 0x12#8, 0x13#8, 0x20#8, 0x21#8, 0x22#8, 0x23#8, 0x24#8]

/-- R68, first condition negated: OPC is one of the twelve. -/
def opcodeAssigned (w : CmdWord) : Bool := assignedOpcodes.contains (opcField w)

/-- LEN "must be zero in every other command" than TYPE_LOADS (R60). -/
def lenAllowed (w : CmdWord) : Bool := opcField w == 0x11#8 || lenField w == 0#8

/-- RSV "must be zero in every command" (R60). -/
def rsvAllowed (w : CmdWord) : Bool := rsvField w == 0#16

/-- R63: ARG is free for TYPE_LOAD, TYPE_LOADS and TYPE_EQ, has ARG[31:8] = 0 for CRC_BYTE, and is zero otherwise. -/
def argAllowed (w : CmdWord) : Bool :=
  if opcField w == 0x10#8 || opcField w == 0x11#8 || opcField w == 0x13#8 then true
  else if opcField w == 0x02#8 then (argField w).extractLsb' 8 24 == 0#24
  else argField w == 0#32

/-- The word is one of the block's commands: neither condition of R68 holds. -/
def wordLegal (w : CmdWord) : Bool :=
  opcodeAssigned w && lenAllowed w && rsvAllowed w && argAllowed w

/-- The operands the assembler writes (R73): ARG is 0 in a TYPE_LOADS whose LEN is not 4. The block accepts
every other ARG there too and ignores it (R63), so no statement about the block assumes this. -/
def Instr.asmForm : Instr → Bool
  | .typeLoads len arg => len == 4#8 || arg == 0#32
  | .crcStart | .crcByte _ | .crcFinal | .typeLoad _ | .typeRead | .typeEq _ => true
  | .typeIsvalid | .typeIscrit | .typeIspub | .typeIsrsv | .typeIssafe => true

end Sys2Proof
end

