-- ==== Sys2Proof/Decode.lean ====
section
/-! DEFINITION. The decoder of R66 and R67, total over all 2^64 words, and the encoder of R60, R63 and R65. -/

namespace Sys2Proof

/-- One row of R66's table with the fields R67 passes. -/
structure OpcodeRow where
  pattern : CmdWord
  mask : CmdWord
  build : CmdWord → Instr

/-- The two ways a word can be illegal (R68). Both are executed as `IllegalCommand` (60 R204), so
telling them apart is the model's own (log entry 10). -/
inductive IllegalReason where
  /-- OPC is not one of the twelve. -/
  | unassignedOpcode
  /-- OPC is assigned, but a must-be-zero bit is set. -/
  | mustBeZeroBitSet
deriving DecidableEq, Repr

/-- What R67's decode answers: a command, or Illegal. -/
inductive Decoded where
  | command (i : Instr)
  | illegal (why : IllegalReason)
deriving DecidableEq, Repr

/-- b = w[7:0] (R67). -/
def fieldB (w : CmdWord) : Byte := w.extractLsb' 0 8
/-- ARG = w[31:0] (R67). -/
def fieldArg (w : CmdWord) : Word := w.extractLsb' 0 32
/-- LEN = w[55:48] (R67). -/
def fieldLen (w : CmdWord) : Byte := w.extractLsb' 48 8

/-- The match and mask values of R66, in the table's order. -/
def opcodeRows : List OpcodeRow :=
  [ ⟨0x0100000000000000#64, 0xFFFFFFFFFFFFFFFF#64, fun _ => .crcStart⟩,
    ⟨0x0200000000000000#64, 0xFFFFFFFFFFFFFF00#64, fun w => .crcByte (fieldB w)⟩,
    ⟨0x0300000000000000#64, 0xFFFFFFFFFFFFFFFF#64, fun _ => .crcFinal⟩,
    ⟨0x1000000000000000#64, 0xFFFFFFFF00000000#64, fun w => .typeLoad (fieldArg w)⟩,
    ⟨0x1100000000000000#64, 0xFF00FFFF00000000#64, fun w => .typeLoads (fieldLen w) (fieldArg w)⟩,
    ⟨0x1200000000000000#64, 0xFFFFFFFFFFFFFFFF#64, fun _ => .typeRead⟩,
    ⟨0x1300000000000000#64, 0xFFFFFFFF00000000#64, fun w => .typeEq (fieldArg w)⟩,
    ⟨0x2000000000000000#64, 0xFFFFFFFFFFFFFFFF#64, fun _ => .typeIsvalid⟩,
    ⟨0x2100000000000000#64, 0xFFFFFFFFFFFFFFFF#64, fun _ => .typeIscrit⟩,
    ⟨0x2200000000000000#64, 0xFFFFFFFFFFFFFFFF#64, fun _ => .typeIspub⟩,
    ⟨0x2300000000000000#64, 0xFFFFFFFFFFFFFFFF#64, fun _ => .typeIsrsv⟩,
    ⟨0x2400000000000000#64, 0xFFFFFFFFFFFFFFFF#64, fun _ => .typeIssafe⟩ ]

/-- "A word w selects command X iff `(w & mask_X) == match_X`" (R66). -/
def OpcodeRow.selects (r : OpcodeRow) (w : CmdWord) : Bool := w &&& r.mask == r.pattern

/-- R67's loop over the rows. -/
def decodeRows : List OpcodeRow → CmdWord → Option Instr
  | [], _ => none
  | r :: rs, w => if r.selects w then some (r.build w) else decodeRows rs w

/-- Which condition of R68 holds of a word that selects no row. -/
def illegalReason (w : CmdWord) : IllegalReason :=
  if opcodeAssigned w then .mustBeZeroBitSet else .unassignedOpcode

/-- `decode` of R67. -/
def decode (w : CmdWord) : Decoded :=
  match decodeRows opcodeRows w with
  | some i => .command i
  | none => .illegal (illegalReason w)

/-- `{OPC, LEN, RSV = 0, ARG}` of R60. -/
def commandWord (opc : Byte) (len : Byte) (arg : Word) : CmdWord := opc ++ len ++ 0#16 ++ arg

/-- The command word of an instruction, from the opcode map R65 and the operand assembly R63. -/
def encode : Instr → CmdWord
  | .crcStart => commandWord 0x01#8 0#8 0#32
  | .crcByte b => commandWord 0x02#8 0#8 (b.setWidth 32)
  | .crcFinal => commandWord 0x03#8 0#8 0#32
  | .typeLoad arg => commandWord 0x10#8 0#8 arg
  | .typeLoads len arg => commandWord 0x11#8 len arg
  | .typeRead => commandWord 0x12#8 0#8 0#32
  | .typeEq arg => commandWord 0x13#8 0#8 arg
  | .typeIsvalid => commandWord 0x20#8 0#8 0#32
  | .typeIscrit => commandWord 0x21#8 0#8 0#32
  | .typeIspub => commandWord 0x22#8 0#8 0#32
  | .typeIsrsv => commandWord 0x23#8 0#8 0#32
  | .typeIssafe => commandWord 0x24#8 0#8 0#32

/-- The command word that the low `nbits` bits of `w` stand for, numbered as the opcode table numbers them:
CMD64 is one 64-bit word with bit 0 its least significant bit, and bits above `nbits` are 0. -/
def tableWord (nbits w : Nat) : CmdWord := BitVec.ofNat 64 (w % 2 ^ nbits)

/-- What the decoder reads from an instruction of the opcode table; none where it answers Illegal, or where the
bits do not fit one 64-bit command word. -/
def decodeTableWord (nbits w : Nat) : Option Instr :=
  if w % 2 ^ nbits < 2 ^ 64 then
    match decode (tableWord nbits w) with
    | .command i => some i
    | .illegal _ => none
  else none

end Sys2Proof
end

