-- ==== Sys2Proof/Machine/State.lean ====
section
/-! DEFINITION. The state: the record of 10_state R27, and the interface the host reaches the block through. -/

namespace Sys2Proof.Machine

/-- The pair (STATUS, RESULT) that every command returns (30_encoding R61). -/
structure Response where
  status : Byte
  result : Word
deriving DecidableEq, Repr

/-- What the outside world does to the block: issue one command word (R60), or reset it between commands (70 R231). -/
inductive HostInput where
  | command (w : CmdWord)
  | reset
deriving DecidableEq, Repr

/-- The error kinds of 60 R201. They are responses, not stops: raising one is a next state (R200, R208). -/
inductive ErrorKind where
  /-- R202: a byte of the code is not alphabetic. -/
  | invalidCharacter
  /-- R203: the string length is not 4. -/
  | invalidLength
  /-- R205: TYPE_LOADED = 0. -/
  | noType
  /-- R206: CRC_OPEN = 0. -/
  | crcNotOpen
  /-- R204: the word selects no command. -/
  | illegalCommand
deriving DecidableEq, Repr

/-- The block's whole architectural state: exactly the record of R27, "and nothing more". -/
structure Block where
  /-- CRC_REG (R21). -/
  crcReg : Word
  /-- CRC_OPEN (R22). -/
  crcOpen : Bool
  /-- TYPE_REG and TYPE_LOADED (R23, R24): `none` is TYPE_LOADED = 0, the spec's own encoding (R27; log entry 3). -/
  typeReg : Option Word
deriving DecidableEq, Repr

/-- The block and, around it, the interface: a step of this model is a function of its state alone, so what goes
in and comes out stands here too, although it is "not state of the block" (R26; log entries 1 and 2). Commands
are computed on `Block` alone (Ops.lean), so none can read the interface. -/
structure State extends block : Block where
  /-- The host's inputs not yet taken, first issued first (20 R49; log entry 2). -/
  inbox : List HostInput
  /-- The response of the last command; `none` before any since reset (R61; log entry 1). -/
  response : Option Response
deriving DecidableEq, Repr

/-- Nothing stops the block: every error is a response (R200, R208) and every command completes (R20), so there
is no reason to fault (log entry 6). -/
inductive Fault where
deriving DecidableEq, Repr

/-- Reasons a step has no meaning. -/
inductive Refusal where
  /-- An instruction the model gives no meaning yet; raised by an arm of `exec` only. Safe: nothing can be
  proved of what the hardware does there. No arm raises it: all twelve commands have their meaning. -/
  | notModelled (mnemonic : String)
deriving DecidableEq, Repr

/-- `reset : State` of 70 R230, the record as the rule writes it. -/
def Block.reset : Block where
  crcReg := 0xFFFFFFFF#32
  crcOpen := false
  typeReg := none

/-- The state right after reset (70 R230), with no input issued and no response returned. -/
def State.reset : State where
  block := Block.reset
  inbox := []
  response := none

end Sys2Proof.Machine
end

