-- ==== Sys2Proof/Machine/Operands.lean ====
section
/-! DEFINITION. The operand forms: bytes of a type word (20 R43), the string operand of TYPE_LOADS (R62, R63, R73),
the zero-extended data byte (R63), and the byte orders in which the host lays words out (R42). -/

namespace Sys2Proof.Machine

/-- `byte(w, i) = w[31-8i : 24-8i]` (R8, R43). -/
def typeByte (w : Word) (i : Fin 4) : Byte := w.extractLsb' (24 - 8 * i.val) 8

/-- The type word `{b0, b1, b2, b3}` of four bytes in wire order (R43). -/
def typeWord (b0 b1 b2 b3 : Byte) : Word := b0 ++ b1 ++ b2 ++ b3

/-- The four bytes of a word, byte 0 first: the code of a type word (R43), and a checksum on the wire, most
significant byte first (R42). -/
def wordBytes (w : Word) : List Byte := [typeByte w 0, typeByte w 1, typeByte w 2, typeByte w 3]

/-- The four bytes of a word, least significant first: `le32` of 41 R152. -/
def wordBytesLe (w : Word) : List Byte := [typeByte w 3, typeByte w 2, typeByte w 1, typeByte w 0]

/-- `zext_32(b)` of a data byte (R7, R63). -/
def zextByte (b : Byte) : Word := b.setWidth 32

/-- `LEN = min(n, 255)` (R62). -/
def lenOperand (n : Nat) : Byte := BitVec.ofNat 8 (min n 255)

/-- LEN of a string operand (R73). -/
def stringLen (str : List Byte) : Byte := lenOperand str.length

/-- ARG of a string operand: the type word of its bytes if there are four, and 0 otherwise (R73). -/
def stringArg : List Byte → Word
  | [b0, b1, b2, b3] => typeWord b0 b1 b2 b3
  | _ => 0x00000000#32

end Sys2Proof.Machine
end

