-- ==== Sys2Proof/Machine/Ops.lean ====
section
/-! DEFINITION. The named operations: register writes, `respond` and `raise` of 00_scope R8, and the two gates, all
over the block alone with the shape `Block → Block × Response` of R9; then the operations over the whole state. An
error of this block IS its exception: `raise` is the one place where one is taken, and there is no return from it (60 R208). -/

namespace Sys2Proof.Machine

/-- What a step answers. -/
abbrev Result := Host.Outcome State Fault Refusal

/-- What a command computes: `State x Rsp` of R9, where the spec's State is the record of R27. -/
abbrev Answer := Block × Response

/-- `CRC_REG <- v` (R21). -/
def setCrcReg (b : Block) (v : Word) : Block := { b with crcReg := v }

/-- `CRC_OPEN <- v` (R22). -/
def setCrcOpen (b : Block) (v : Bool) : Block := { b with crcOpen := v }

/-- `TYPE_REG <- w` and `TYPE_LOADED <- 1`, one write of the whole value (R23, R24, D26). -/
def setType (b : Block) (w : Word) : Block := { b with typeReg := some w }

/-- TYPE_LOADED (R24, R27). -/
def typeLoaded (b : Block) : Bool := b.typeReg.isSome

/-- STATUS = OK (60 R201). -/
def statusOk : Byte := 0x00#8

/-- The status codes of 60 R201. -/
def errorCode : ErrorKind → Byte
  | .invalidCharacter => 0x01#8
  | .invalidLength => 0x02#8
  | .noType => 0x03#8
  | .crcNotOpen => 0x04#8
  | .illegalCommand => 0x05#8

/-- `respond(v)`: end the command with STATUS = OK and RESULT = v (R8). -/
def respond (v : Word) (b : Block) : Answer := (b, ⟨statusOk, v⟩)

/-- `raise E`: end the command with STATUS = code(E) and RESULT = 0, writing no register (60 R200). -/
def raise (e : ErrorKind) (b : Block) : Answer := (b, ⟨errorCode e, 0x00000000#32⟩)

/-- `if CRC_OPEN == 0 then raise CrcNotOpen`, then the rest of the command (60 R206). -/
def withOpenCall (b : Block) (body : Answer) : Answer :=
  if b.crcOpen then body else raise .crcNotOpen b

/-- `if TYPE_LOADED == 0 then raise NoType`, then the rest of the command with TYPE_REG (60 R205). -/
def withType (b : Block) (body : Word → Answer) : Answer :=
  match b.typeReg with
  | none => raise .noType b
  | some w => body w

/-- The host's remaining inputs. -/
def setInbox (s : State) (xs : List HostInput) : State := { s with inbox := xs }

/-- A command's answer carried out: its registers and its response take effect together (R8, R20). -/
def complete (s : State) (a : Answer) : State := { s with block := a.1, response := some a.2 }

/-- A command completes with its answer. -/
def answer (s : State) (a : Answer) : Result := .next (complete s a)

/-- The reset transition: every register at its reset value whatever it was (70 R230); it returns no response,
and the host's later inputs stay (log entry 5). -/
def applyReset (s : State) : Result := .next (setInbox State.reset s.inbox)

/-- With no command and no reset, the block "is idle and keeps all its state" (60 R218; log entry 4). -/
def idle (s : State) : Result := .next s

end Sys2Proof.Machine
end

