-- ==== Sys2Proof/Machine/Crc.lean ====
section
/-! DEFINITION. The CRC unit (41_crc): its datapath, the function `crc32`, and the meanings of its three commands. -/

namespace Sys2Proof.Machine

/-- The generator polynomial in normal form, without its x^32 term (R140). -/
def crcPoly : Word := 0x04C11DB7#32

/-- The polynomial as the reflected shift register uses it (R140, 90_conflicts C2). -/
def crcPolyReflected : Word := 0xEDB88320#32

/-- The initial register value (R140). -/
def crcInit : Word := 0xFFFFFFFF#32

/-- The final exclusive-or (R140). -/
def crcXorOut : Word := 0xFFFFFFFF#32

/-- One conditional right shift of the reflected register (R141). -/
def crcShift (c : Word) : Word :=
  if c.getLsbD 0 then (c >>> 1) ^^^ crcPolyReflected else c >>> 1

/-- n conditional right shifts. -/
def crcShiftN : Nat → Word → Word
  | 0, c => c
  | n + 1, c => crcShiftN n (crcShift c)

/-- `CrcStep(c, b)` (R141). -/
def crcStep (c : Word) (b : Byte) : Word := crcShiftN 8 (c ^^^ zextByte b)

/-- `T[i]`, the table of R142. -/
def crcTable (i : Byte) : Word := crcStep 0x00000000#32 i

/-- The register after the bytes of a message, the loop of R143. -/
def crcFold (c : Word) (m : List Byte) : Word := m.foldl crcStep c

/-- `crc32(M)` (R143). -/
def crc32 (m : List Byte) : Word := crcFold crcInit m ^^^ crcXorOut

/-- `crc0(E)`: R143 with initial value and final exclusive-or 0 (R150). -/
def crc0 (e : List Byte) : Word := crcFold 0x00000000#32 e

/-- CRC_START (R145). -/
def execCrcStart (s : State) : Result :=
  answer s (respond 0x00000000#32 (setCrcOpen (setCrcReg s.block crcInit) true))

/-- CRC_BYTE (R146). -/
def execCrcByte (b : Byte) (s : State) : Result :=
  answer s (withOpenCall s.block (respond 0x00000000#32 (setCrcReg s.block (crcStep s.crcReg b))))

/-- CRC_FINAL (R147). -/
def execCrcFinal (s : State) : Result :=
  answer s (withOpenCall s.block
    (respond (s.crcReg ^^^ crcXorOut) (setCrcOpen (setCrcReg s.block crcInit) false)))

end Sys2Proof.Machine
end

