-- ==== Sys2Proof/Machine/Flags.lean ====
section
/-! DEFINITION. Every computed flag: the alphabetic test (40 R100), the property bits and validity of a type
word (R101), and the 32-bit form of a boolean (00_scope R7). -/

namespace Sys2Proof.Machine

/-- `alpha(b)`: b is the code of an ASCII letter (R100). -/
def alpha (b : Byte) : Bool := (0x41#8 ≤ b && b ≤ 0x5A#8) || (0x61#8 ≤ b && b ≤ 0x7A#8)

/-- All four bytes of a type word are alphabetic: the check of TYPE_LOAD (R102) and the first part of `valid`. -/
def allAlpha (w : Word) : Bool :=
  alpha (typeByte w 0) && alpha (typeByte w 1) && alpha (typeByte w 2) && alpha (typeByte w 3)

/-- Bit 5 (weight 0x20, R6) of byte i: the one extraction the four properties share (R101). -/
def propertyBit (w : Word) (i : Fin 4) : Bool := (typeByte w i).getLsbD 5

/-- `crit(w)`: bit 5 of byte 0 is 0 (R101). -/
def crit (w : Word) : Bool := !propertyBit w 0

/-- `pub(w)`: bit 5 of byte 1 is 0 (R101, polarity D9). -/
def pub (w : Word) : Bool := !propertyBit w 1

/-- `rsvok(w)`: bit 5 of byte 2 is 0 (R101). -/
def rsvok (w : Word) : Bool := !propertyBit w 2

/-- `safe(w)`: bit 5 of byte 3 is 1 (R101, polarity D9). -/
def safe (w : Word) : Bool := propertyBit w 3

/-- `valid(w)`: all bytes alphabetic and the reserved bit 0 (R101, 90_conflicts C1). -/
def valid (w : Word) : Bool := allAlpha w && rsvok w

/-- true and false as the 32-bit results 1 and 0 (R7). -/
def boolResult (p : Bool) : Word := if p then 0x00000001#32 else 0x00000000#32

end Sys2Proof.Machine
end

