-- ==== Sys2Proof/Machine/TypeUnit.lean ====
section
/-! DEFINITION. The TYPE unit (40_chunk_type): the meanings of its nine commands. -/

namespace Sys2Proof.Machine

/-- The alphabetic check and the write that TYPE_LOAD and TYPE_LOADS share (R102, R103). -/
def loadType (arg : Word) (b : Block) : Answer :=
  if allAlpha arg then respond 0x00000000#32 (setType b arg) else raise .invalidCharacter b

/-- The property readers' shared shape: NoType, or the predicate of TYPE_REG as 1 or 0 (R106 to R110). -/
def readProperty (p : Word → Bool) (b : Block) : Answer :=
  withType b fun w => respond (boolResult (p w)) b

/-- TYPE_LOAD (R102). -/
def execTypeLoad (arg : Word) (s : State) : Result := answer s (loadType arg s.block)

/-- TYPE_LOADS (R103): the length is checked first, and ARG is ignored if it is not 4. -/
def execTypeLoads (len : Byte) (arg : Word) (s : State) : Result :=
  answer s (if len ≠ 4#8 then raise .invalidLength s.block else loadType arg s.block)

/-- TYPE_READ (R104). -/
def execTypeRead (s : State) : Result := answer s (withType s.block fun w => respond w s.block)

/-- TYPE_EQ (R105): a raw comparison of all 32 bits; ARG is not validated (D21). -/
def execTypeEq (arg : Word) (s : State) : Result :=
  answer s (withType s.block fun w => respond (boolResult (w == arg)) s.block)

/-- TYPE_ISVALID (R106). -/
def execTypeIsvalid (s : State) : Result := answer s (readProperty valid s.block)

/-- TYPE_ISCRIT (R107). -/
def execTypeIscrit (s : State) : Result := answer s (readProperty crit s.block)

/-- TYPE_ISPUB (R108). -/
def execTypeIspub (s : State) : Result := answer s (readProperty pub s.block)

/-- TYPE_ISRSV (R109). -/
def execTypeIsrsv (s : State) : Result := answer s (readProperty rsvok s.block)

/-- TYPE_ISSAFE (R110). -/
def execTypeIssafe (s : State) : Result := answer s (readProperty safe s.block)

end Sys2Proof.Machine
end

