-- ==== Sys2Proof/Machine/Dispatch.lean ====
section
/-! DEFINITION. The meaning of each command, one arm for each constructor of Instr. -/

namespace Sys2Proof.Machine

def exec (i : Instr) (s : State) : Host.Outcome State Fault Refusal :=
  match i with
  | .crcStart => Sys2Proof.Machine.execCrcStart s
  | .crcByte b => Sys2Proof.Machine.execCrcByte b s
  | .crcFinal => Sys2Proof.Machine.execCrcFinal s
  | .typeLoad arg => Sys2Proof.Machine.execTypeLoad arg s
  | .typeLoads len arg => Sys2Proof.Machine.execTypeLoads len arg s
  | .typeRead => Sys2Proof.Machine.execTypeRead s
  | .typeEq arg => Sys2Proof.Machine.execTypeEq arg s
  | .typeIsvalid => Sys2Proof.Machine.execTypeIsvalid s
  | .typeIscrit => Sys2Proof.Machine.execTypeIscrit s
  | .typeIspub => Sys2Proof.Machine.execTypeIspub s
  | .typeIsrsv => Sys2Proof.Machine.execTypeIsrsv s
  | .typeIssafe => Sys2Proof.Machine.execTypeIssafe s

end Sys2Proof.Machine
end

