-- ==== Sys2Proof/Machine/Interface.lean ====
section
/-! DEFINITION. How one host input is taken: `exec : State -> Cmd -> State x Rsp` of 00_scope R9 over command
words, reset between commands, and placing a word as the next input. -/

namespace Sys2Proof.Machine

/-- Decode runs before anything else (60 R210); an illegal word raises IllegalCommand and changes no register (R204). -/
def execWord (w : CmdWord) (s : State) : Result :=
  match decode w with
  | .command i => exec i s
  | .illegal _ => answer s (raise .illegalCommand s.block)

/-- Take one input that has left the inbox. -/
def takeInput (x : HostInput) (s : State) : Result :=
  match x with
  | .command w => execWord w s
  | .reset => applyReset s

/-- The word issued as the host's next input, before every input that waits. -/
def issueNext (s : State) (w : CmdWord) : State := setInbox s (.command w :: s.inbox)

end Sys2Proof.Machine
end

