-- ==== Sys2Proof/Machine/Step.lean ====
section
/-! DEFINITION. One step: take the host's next input, in issue order (20 R49), or idle if there is none. -/

namespace Sys2Proof.Machine

def step (s : State) : Host.Outcome State Fault Refusal :=
  match s.inbox with
  | [] => idle s
  | x :: rest => takeInput x (setInbox s rest)

/-- The state with one more command word issued, as the next input that `step` takes (log entry 2). -/
def State.withFetchWord (s : State) (nbits w : Nat) : State := issueNext s (tableWord nbits w)

end Sys2Proof.Machine
end

