-- ==== Sys2Proof/Machine/HostSide.lean ====
section
/-! DEFINITION. What the spec says the host does around the block: one call as commands (41 R148), the bytes of a
PNG chunk (20 R41, R42, R44), and the checksum comparison (60 R207). No step reads any of it. -/

namespace Sys2Proof.Machine

/-- One `crc32` call as commands: CRC_START, one CRC_BYTE for each byte, CRC_FINAL (00_scope glossary, D2). -/
def callWords (m : List Byte) : List CmdWord :=
  encode .crcStart :: m.map (fun b => encode (.crcByte b)) ++ [encode .crcFinal]

/-- The message of a chunk: the four type bytes, byte 0 first, then the data (R41). -/
def chunkMessage (type : Word) (data : List Byte) : List Byte := wordBytes type ++ data

/-- A chunk on the wire: big-endian length of the data, type code, data, big-endian checksum (R44); none where
the length does not fit its four bytes (log entry 9). -/
def serializeChunk (type : Word) (data : List Byte) : Option (List Byte) :=
  if data.length < 2 ^ 32 then
    some (wordBytes (BitVec.ofNat 32 data.length) ++ chunkMessage type data ++
      wordBytes (crc32 (chunkMessage type data)))
  else none

/-- The number a stored checksum stands for: `{s0, s1, s2, s3}` (R42). -/
def storedChecksum (s0 s1 s2 s3 : Byte) : Word := s0 ++ s1 ++ s2 ++ s3

/-- The host "raises ChecksumMismatch iff CRC_FINAL's RESULT differs from the stored number" (R207). -/
def checksumMismatch (stored result : Word) : Bool := result != stored

end Sys2Proof.Machine
end

