-- ==== Sys2Proof/Machine/Assembler.lean ====
section
/-! DEFINITION. The assembler: the lines of R71 and R74 and the words they encode (R73, R74), then their text
(R71, R72), read as bytes. What the spec leaves open of the text is in log entry 8. -/

namespace Sys2Proof.Machine

/-- One line of assembly with its operands read: the commands and the directive of R71, the pseudo-instructions of R74. -/
inductive AsmLine where
  | crcStart
  | crcByte (b : Byte)
  | crcFinal
  | typeLoad (type : Word)
  | typeLoads (str : List Byte)
  | typeRead
  | typeEq (type : Word)
  | typeIsvalid
  | typeIscrit
  | typeIspub
  | typeIsrsv
  | typeIssafe
  /-- `.word IMM64`: the word as given, legal or not. -/
  | word (w : CmdWord)
  /-- `crc.bytes b0, …, bk` and `crc.bytes STR`. -/
  | crcBytes (bs : List Byte)
  /-- `crc.word IMM32`. -/
  | crcWord (v : Word)
  /-- `crc32 STR`. -/
  | crc32 (str : List Byte)
deriving DecidableEq, Repr

/-- The command words of a line, in order (R71, R73, R74). -/
def assemble : AsmLine → List CmdWord
  | .crcStart => [encode .crcStart]
  | .crcByte b => [encode (.crcByte b)]
  | .crcFinal => [encode .crcFinal]
  | .typeLoad type => [encode (.typeLoad type)]
  | .typeLoads str => [encode (.typeLoads (stringLen str) (stringArg str))]
  | .typeRead => [encode .typeRead]
  | .typeEq type => [encode (.typeEq type)]
  | .typeIsvalid => [encode .typeIsvalid]
  | .typeIscrit => [encode .typeIscrit]
  | .typeIspub => [encode .typeIspub]
  | .typeIsrsv => [encode .typeIsrsv]
  | .typeIssafe => [encode .typeIssafe]
  | .word w => [w]
  | .crcBytes bs => bs.map fun b => encode (.crcByte b)
  | .crcWord v => (wordBytes v).map fun b => encode (.crcByte b)
  | .crc32 str => callWords str

/-- The bytes of an ASCII text. -/
def ascii (text : String) : List Byte := text.toList.map fun c => BitVec.ofNat 8 c.toNat

def chTab : Byte := 0x09#8
def chNewline : Byte := 0x0A#8
def chSpace : Byte := 0x20#8
def chDoubleQuote : Byte := 0x22#8
def chQuote : Byte := 0x27#8
def chComma : Byte := 0x2C#8
def chSemicolon : Byte := 0x3B#8
def chBackslash : Byte := 0x5C#8
def chLowerX : Byte := 0x78#8

def isSpace (c : Byte) : Bool := c == chSpace || c == chTab

def trimText (t : List Byte) : List Byte :=
  ((t.dropWhile isSpace).reverse.dropWhile isSpace).reverse

/-- Where a character stands: outside literals, in a quoted literal of which `left` more characters follow the
present one, in a string, or after a string's `\`. -/
inductive QuoteMode where
  | plain
  | literal (left : Nat)
  | string
  | stringEscape
deriving DecidableEq, Repr

/-- What may follow a literal: the end of the text, white space, a comma or a comment (R71). -/
def endsOperand : List Byte → Bool
  | [] => true
  | c :: _ => isSpace c || c == chComma || c == chSemicolon

/-- Which literal of R72 an apostrophe opens, from the text after it: `'c'` if an operand may end behind it, else
`'\xHH'` or `'ABCD'`, which have four characters; `plain` if it opens none. The literals have fixed lengths, so
an apostrophe may itself stand in one, as in `'''`: R72 does not say, and this is the model's choice (DESIGN
CHOICE, log entry 8). -/
def literalMode : List Byte → QuoteMode
  | _ :: c2 :: more =>
    if c2 = chQuote ∧ endsOperand more = true then .literal 1
    else
      match more with
      | _ :: _ :: c5 :: _ => if c5 = chQuote then .literal 4 else .plain
      | _ => .plain
  | _ => .plain

/-- Where the next character stands, from where `c` stands, `c` itself, and the text after it. -/
def nextMode : QuoteMode → Byte → List Byte → QuoteMode
  | .plain, c, rest =>
    if c = chQuote then literalMode rest else if c = chDoubleQuote then .string else .plain
  | .literal 0, _, _ => .plain
  | .literal (n + 1), _, _ => .literal n
  | .string, c, _ =>
    if c = chDoubleQuote then .plain else if c = chBackslash then .stringEscape else .string
  | .stringEscape, _, _ => .string

/-- The pieces of a text between the separators that stand outside literals; `cur` is the current piece, reversed. -/
def splitOutside (sep : Byte) (mode : QuoteMode) (cur : List Byte) : List Byte → List (List Byte)
  | [] => [cur.reverse]
  | c :: cs =>
    if mode = .plain ∧ c = sep then cur.reverse :: splitOutside sep .plain [] cs
    else splitOutside sep (nextMode mode c cs) (c :: cur) cs

/-- "Comments begin with `;`" (R71), outside literals. -/
def stripComment (t : List Byte) : List Byte := (splitOutside chSemicolon .plain [] t).headD []

def decDigit (c : Byte) : Option Nat :=
  if 0x30#8 ≤ c ∧ c ≤ 0x39#8 then some (c.toNat - 0x30) else none

def hexDigit (c : Byte) : Option Nat :=
  if 0x30#8 ≤ c ∧ c ≤ 0x39#8 then some (c.toNat - 0x30)
  else if 0x41#8 ≤ c ∧ c ≤ 0x46#8 then some (c.toNat - 0x41 + 10)
  else if 0x61#8 ≤ c ∧ c ≤ 0x66#8 then some (c.toNat - 0x61 + 10)
  else none

def digitsValue (base : Nat) (digit : Byte → Option Nat) (acc : Nat) : List Byte → Option Nat
  | [] => some acc
  | c :: cs =>
    match digit c with
    | some d => digitsValue base digit (acc * base + d) cs
    | none => none

/-- The digits after `0x`, of which there must be at least one. -/
def hexText : List Byte → Option (List Byte)
  | z :: x :: d :: ds => if z = 0x30#8 ∧ x = chLowerX then some (d :: ds) else none
  | _ => none

/-- A number "written in decimal or `0x..`" (R72). -/
def numberValue (t : List Byte) : Option Nat :=
  match hexText t with
  | some ds => digitsValue 16 hexDigit 0 ds
  | none => if t.isEmpty then none else digitsValue 10 decDigit 0 t

/-- The text between the apostrophe that begins an operand and the one that ends it. An apostrophe between them
is taken as it stands, so that `'''` and `'AB'C'` are literals: R72 does not say whether one may (DESIGN CHOICE,
log entry 8). -/
def quotedText : List Byte → Option (List Byte)
  | [] => none
  | q :: rest => if q = chQuote ∧ rest.getLast? = some chQuote then some rest.dropLast else none

/-- The byte that `\xHH` stands for, from its two digits (R72). -/
def hexByte (h l : Byte) : Option Byte :=
  match hexDigit h, hexDigit l with
  | some a, some b => some (BitVec.ofNat 8 (a * 16 + b))
  | _, _ => none

/-- The byte of a one-character literal: the character's code, or `\xHH` (R72). -/
def charByte : List Byte → Option Byte
  | [c] => some c
  | [e, x, h, l] => if e = chBackslash ∧ x = chLowerX then hexByte h l else none
  | _ => none

/-- IMM8: a number 0 to 255 or a one-character literal (R72). -/
def imm8 (t : List Byte) : Option Byte :=
  match quotedText t with
  | some body => charByte body
  | none =>
    match numberValue t with
    | some n => if n < 256 then some (BitVec.ofNat 8 n) else none
    | none => none

/-- TYPE and IMM32: `0xHHHHHHHH`, or a four-character literal that stands for its type word (R72, R74). -/
def typeLiteral (t : List Byte) : Option Word :=
  match quotedText t with
  | some [b0, b1, b2, b3] => some (typeWord b0 b1 b2 b3)
  | some _ => none
  | none =>
    match hexText t with
    | some ds =>
      if ds.length = 8 then (digitsValue 16 hexDigit 0 ds).map (BitVec.ofNat 32) else none
    | none => none

/-- IMM64 of `.word` (R71). -/
def imm64 (t : List Byte) : Option CmdWord :=
  match numberValue t with
  | some n => if n < 2 ^ 64 then some (BitVec.ofNat 64 n) else none
  | none => none

/-- Where a string's reader stands: at a character, after `\`, after `\x`, or after `\x` and its first digit. -/
inductive StringMode where
  | plain
  | escape
  | hexHigh
  | hexLow (h : Byte)
deriving DecidableEq, Repr

/-- The bytes of a string after its opening quote, up to a closing quote that ends the text: `\xHH` is any
byte, `\"` and `\\` stand for themselves (R72). -/
def stringBody : StringMode → List Byte → Option (List Byte)
  | _, [] => none
  | .plain, c :: cs =>
    if c = chDoubleQuote then (if cs.isEmpty then some [] else none)
    else if c = chBackslash then stringBody .escape cs
    else (stringBody .plain cs).map (c :: ·)
  | .escape, c :: cs =>
    if c = chLowerX then stringBody .hexHigh cs
    else if c = chDoubleQuote ∨ c = chBackslash then (stringBody .plain cs).map (c :: ·)
    else none
  | .hexHigh, c :: cs => stringBody (.hexLow c) cs
  | .hexLow h, c :: cs => (hexByte h c).bind fun b => (stringBody .plain cs).map (b :: ·)

/-- STR: a double-quoted byte string (R72). -/
def stringLiteral : List Byte → Option (List Byte)
  | [] => none
  | q :: rest => if q = chDoubleQuote then stringBody .plain rest else none

/-- Every element read, or none. -/
def readAll {α β : Type} (read : α → Option β) : List α → Option (List β)
  | [] => some []
  | x :: xs => (read x).bind fun y => (readAll read xs).map (y :: ·)

/-- The operand list of `crc.bytes`: bytes separated by commas, or one string (R74). -/
def bytesOperand (t : List Byte) : Option (List Byte) :=
  match stringLiteral t with
  | some str => some str
  | none => readAll (fun p => imm8 (trimText p)) (splitOutside chComma .plain [] t)

/-- The commands without operands (R71). -/
def plainLines : List (List Byte × AsmLine) :=
  [ (ascii "crc.start", .crcStart), (ascii "crc.final", .crcFinal), (ascii "type.read", .typeRead),
    (ascii "type.isvalid", .typeIsvalid), (ascii "type.iscrit", .typeIscrit),
    (ascii "type.ispub", .typeIspub), (ascii "type.isrsv", .typeIsrsv),
    (ascii "type.issafe", .typeIssafe) ]

/-- A mnemonic and its operand text, both without spaces around them (R71, R74). -/
def readCommand (name operands : List Byte) : Option AsmLine :=
  if operands.isEmpty then (plainLines.find? fun p => p.1 == name).map fun p => p.2
  else if name = ascii "crc.byte" then (imm8 operands).map .crcByte
  else if name = ascii "type.load" then (typeLiteral operands).map .typeLoad
  else if name = ascii "type.loads" then (stringLiteral operands).map .typeLoads
  else if name = ascii "type.eq" then (typeLiteral operands).map .typeEq
  else if name = ascii ".word" then (imm64 operands).map .word
  else if name = ascii "crc.bytes" then (bytesOperand operands).map .crcBytes
  else if name = ascii "crc.word" then (typeLiteral operands).map .crcWord
  else if name = ascii "crc32" then (stringLiteral operands).map .crc32
  else none

/-- The words of one line of text; a line with no command has none (R71). -/
def assembleLine (line : List Byte) : Option (List CmdWord) :=
  let t := trimText (stripComment line)
  if t.isEmpty then some []
  else
    (readCommand (t.takeWhile fun c => !isSpace c)
      (trimText (t.dropWhile fun c => !isSpace c))).map assemble

/-- The lines of a text. -/
def textLines (cur : List Byte) : List Byte → List (List Byte)
  | [] => [cur.reverse]
  | c :: cs => if c = chNewline then cur.reverse :: textLines [] cs else textLines (c :: cur) cs

/-- The command words of an assembly text, "one command per line" (R71). -/
def assembleText (text : List Byte) : Option (List CmdWord) :=
  (readAll assembleLine (textLines [] text)).map List.flatten

end Sys2Proof.Machine
end

