-- ==== Sys2Proof/Safety.lean ====
section
/-! DEFINITION. What claims are stated in: the invariants of 10_state R25 and 60 R201, the block's own state
apart from the interface, the inputs that may stand inside a call (41 R148), and a host that does its duties (70 R233). -/

namespace Sys2Proof

open Machine

/-- (I-TYPE): a held type code is alphabetic (R25). -/
def TypeInv (s : State) : Prop := ∀ w, s.typeReg = some w → allAlpha w = true

/-- (I-CRC): with no open call, CRC_REG is 0xFFFFFFFF (R25). -/
def CrcInv (s : State) : Prop := s.crcOpen = false → s.crcReg = 0xFFFFFFFF#32

/-- STATUS is never a reserved code 0x06 to 0xFF (R201), and RESULT is 0 unless STATUS is OK (R61). -/
def ResponseInv (s : State) : Prop :=
  ∀ r, s.response = some r → r.status ≤ 0x05#8 ∧ (r.status ≠ 0x00#8 → r.result = 0x00000000#32)

/-- The invariant of every state a run reaches. -/
def Inv (s : State) : Prop := TypeInv s ∧ CrcInv s ∧ ResponseInv s

/-- The block's registers agree (R21 to R24, R27); the interface fields may differ. -/
def SameRegisters (s t : State) : Prop := s.block = t.block

/-- An input that R148 allows between the CRC_START and the CRC_FINAL of one call: a CRC_BYTE, a TYPE
command or an illegal word, but no CRC_START, no CRC_FINAL and no reset. -/
def insideCall : HostInput → Bool
  | .reset => false
  | .command w =>
    match decode w with
    | .command .crcStart => false
    | .command .crcFinal => false
    | .command _ => true
    | .illegal _ => true

/-- The message bytes that a list of inputs feeds, in order: the operands of its CRC_BYTE commands (R41). -/
def fedBytes : List HostInput → List Byte
  | [] => []
  | .reset :: xs => fedBytes xs
  | .command w :: xs =>
    match decode w with
    | .command (.crcByte b) => b :: fedBytes xs
    | .command _ => fedBytes xs
    | .illegal _ => fedBytes xs

/-- The left fold of the block's `exec` over command words (20 R49, 00_scope R9), stopping where one has no next state. -/
def foldWords : List CmdWord → State → Result
  | [], s => .next s
  | w :: ws, s =>
    match execWord w s with
    | .next t => foldWords ws t
    | .fault r => .fault r
    | .refused r => .refused r

/-- A CRC command; every other command is one of the TYPE unit's (30_encoding R65). -/
def Instr.isCrc : Instr → Bool
  | .crcStart | .crcByte _ | .crcFinal => true
  | .typeLoad _ | .typeLoads _ _ | .typeRead | .typeEq _ => false
  | .typeIsvalid | .typeIscrit | .typeIspub | .typeIsrsv | .typeIssafe => false

/-- A reader of TYPE_REG, one of the seven commands that 10_state R24 lists. -/
def Instr.isTypeReader : Instr → Bool
  | .typeRead | .typeEq _ | .typeIsvalid | .typeIscrit | .typeIspub | .typeIsrsv | .typeIssafe => true
  | .crcStart | .crcByte _ | .crcFinal | .typeLoad _ | .typeLoads _ _ => false

/-- A command that raises CrcNotOpen while CRC_OPEN = 0: CRC_BYTE and CRC_FINAL (60 R206). -/
def Instr.needsOpenCall : Instr → Bool
  | .crcByte _ | .crcFinal => true
  | .crcStart | .typeLoad _ | .typeLoads _ _ | .typeRead | .typeEq _ => false
  | .typeIsvalid | .typeIscrit | .typeIspub | .typeIsrsv | .typeIssafe => false

/-- The cause of InvalidLength: TYPE_LOADS with LEN ≠ 4 (60 R203). -/
def Instr.badLength : Instr → Bool
  | .typeLoads len _ => len != 4#8
  | .crcStart | .crcByte _ | .crcFinal | .typeLoad _ | .typeRead | .typeEq _ => false
  | .typeIsvalid | .typeIscrit | .typeIspub | .typeIsrsv | .typeIssafe => false

/-- The cause of InvalidCharacter: a load with a byte that is not alphabetic (60 R202). -/
def Instr.badCharacter : Instr → Bool
  | .typeLoad arg | .typeLoads _ arg =>
    !alpha (typeByte arg 0) || !alpha (typeByte arg 1) || !alpha (typeByte arg 2) || !alpha (typeByte arg 3)
  | .crcStart | .crcByte _ | .crcFinal | .typeRead | .typeEq _ => false
  | .typeIsvalid | .typeIscrit | .typeIspub | .typeIsrsv | .typeIssafe => false

/-- An input that starts a call (41 R145). -/
def startsCall : HostInput → Bool
  | .reset => false
  | .command w => decode w == .command .crcStart

/-- An input that loads a type: a TYPE_LOAD or TYPE_LOADS that the block accepts (40 R102, R103). -/
def loadsType : HostInput → Bool
  | .reset => false
  | .command w =>
    match decode w with
    | .command (.typeLoad arg) => allAlpha arg
    | .command (.typeLoads len arg) => len == 4#8 && allAlpha arg
    | .command _ => false
    | .illegal _ => false

/-- What one input does to a host's knowledge of the two gates, and whether it does the duty of R233 there:
CRC_START before the bytes and the end of a message, a load that the block accepts before any TYPE reader. -/
def dutyStep (isOpen loaded : Bool) : HostInput → Bool × Bool × Bool
  | .reset => (true, false, false)
  | .command w =>
    match decode w with
    | .illegal _ => (true, isOpen, loaded)
    | .command .crcStart => (true, true, loaded)
    | .command (.crcByte _) => (isOpen, isOpen, loaded)
    | .command .crcFinal => (isOpen, false, loaded)
    | .command (.typeLoad arg) => (true, isOpen, loaded || allAlpha arg)
    | .command (.typeLoads len arg) => (true, isOpen, loaded || (len == 4#8 && allAlpha arg))
    | .command .typeRead => (loaded, isOpen, loaded)
    | .command (.typeEq _) => (loaded, isOpen, loaded)
    | .command .typeIsvalid => (loaded, isOpen, loaded)
    | .command .typeIscrit => (loaded, isOpen, loaded)
    | .command .typeIspub => (loaded, isOpen, loaded)
    | .command .typeIsrsv => (loaded, isOpen, loaded)
    | .command .typeIssafe => (loaded, isOpen, loaded)

/-- A host that does both duties of R233 throughout a list of inputs. -/
def doesDuties (isOpen loaded : Bool) : List HostInput → Bool
  | [] => true
  | x :: xs =>
    (dutyStep isOpen loaded x).1 &&
      doesDuties (dutyStep isOpen loaded x).2.1 (dutyStep isOpen loaded x).2.2 xs

/-- G(x) of 41 R140, over the field of two elements. -/
noncomputable def generatorPoly : Polynomial (ZMod 2) :=
  .X ^ 32 + .X ^ 26 + .X ^ 23 + .X ^ 22 + .X ^ 16 + .X ^ 12 + .X ^ 11 + .X ^ 10 + .X ^ 8 + .X ^ 7 +
    .X ^ 5 + .X ^ 4 + .X ^ 2 + .X + 1

/-- s_t of 41 R144: bit t of the message in transmission order, `s_(8k+j) = m_k[j]`. -/
def messageBit (m : List Byte) (t : Nat) : Bool := (m.getD (t / 8) 0#8).getLsbD (t % 8)

/-- M(x) of 41 R144: the sum over t of s_t x^(8n-1-t). -/
noncomputable def messagePoly (m : List Byte) : Polynomial (ZMod 2) :=
  ∑ t ∈ Finset.range (8 * m.length),
    if messageBit m t then .X ^ (8 * m.length - 1 - t) else 0

/-- L(x) = x^31 + ... + x + 1 of 41 R144. -/
noncomputable def initPoly : Polynomial (ZMod 2) := ∑ t ∈ Finset.range 32, .X ^ t

/-- r(x) = (x^32 M(x) + x^(8n) L(x)) mod G(x) of 41 R144. -/
noncomputable def remainderPoly (m : List Byte) : Polynomial (ZMod 2) :=
  (.X ^ 32 * messagePoly m + .X ^ (8 * m.length) * initPoly) %ₘ generatorPoly

end Sys2Proof
end

