-- ==== Sys2Proof/Certificates/Slice0/Obligations.lean ====
section
/-! DEFINITION. The statements for the provers, from the numbered rules of spec/. A response is written
⟨STATUS, RESULT⟩ with the numeric codes of 60 R201; an equation `exec i s = .next { s with … }` is at once the
instruction's completion, its result and its frame: every field it does not name is unchanged. The two fields of
State that carry the interface (`inbox`, `response`) are the model's own (log entries 1 and 2). -/

open Sys2Proof Sys2Proof.Machine

/-! ### Reset, steps and whole-machine rules -/

/-- R25 at reset (70 R230): both invariants hold of the reset state, and it shows no reserved status. -/
def Obligations.ResetEstablishesInvariant : Prop := Inv State.reset

/-- R25: "Two invariants hold in every state that reset and `exec` can reach"; with R201's "never returned".
The steps counted here are the model's: commands, idle steps (log entry 4) and reset inputs (log entry 5). -/
def Obligations.StepKeepsInvariant : Prop :=
  ∀ s t : State, Inv s → step s = .next t → Inv t

/-- R230: the reset state's registers, and that a reset leads to them whatever the state before it. That a step
takes a reset as an input is the model's choice (log entry 5). -/
def Obligations.ResetTransition : Prop :=
  (State.reset.crcReg = 0xFFFFFFFF#32 ∧ State.reset.crcOpen = false ∧ State.reset.typeReg = none) ∧
  ∀ (s : State) (rest : List HostInput), s.inbox = .reset :: rest →
    ∃ t, step s = .next t ∧ t.crcReg = 0xFFFFFFFF#32 ∧ t.crcOpen = false ∧ t.typeReg = none

/-- R231: a reset ends an open call and discards the loaded type. From any state, after a reset and any further
inputs: if none of them is a CRC_START, a CRC_BYTE or CRC_FINAL raises CrcNotOpen; if none of them is a load that
the block accepts, a TYPE reader raises NoType. That a reset is an input is the model's choice (log entry 5). -/
def Obligations.ResetEndsCall : Prop :=
  ∀ (s : State) (between : List HostInput) (x : Instr) (rest : List HostInput),
    s.inbox = .reset :: (between ++ .command (encode x) :: rest) →
    (x.needsOpenCall = true → (∀ y ∈ between, startsCall y = false) →
      ∃ t, Host.Core.run core (between.length + 2) s = .next t ∧
        t.response = some ⟨0x04#8, 0x00000000#32⟩ ∧ t.crcReg = 0xFFFFFFFF#32 ∧ t.crcOpen = false) ∧
    (x.isTypeReader = true → (∀ y ∈ between, loadsType y = false) →
      ∃ t, Host.Core.run core (between.length + 2) s = .next t ∧
        t.response = some ⟨0x03#8, 0x00000000#32⟩ ∧ t.typeReg = none)

/-- R218: with no input the block keeps all its state; that the idle step answers a next state is the model's (log entry 4). -/
def Obligations.IdleKeepsState : Prop :=
  ∀ s : State, s.inbox = [] → step s = .next s

/-- The oldest input leaves the inbox, and a word that decodes to a command is executed as exactly that command;
a word placed by `withFetchWord` is the one the next step takes (log entry 2). -/
def Obligations.StepRunsDecodedCommand : Prop :=
  (∀ (s : State) (w : CmdWord) (rest : List HostInput) (i : Instr),
    s.inbox = .command w :: rest → decode w = .command i →
      step s = exec i { s with inbox := rest }) ∧
  (∀ (s : State) (n : Nat) (i : Instr), decodeTableWord 64 n = some i →
    step (s.withFetchWord 64 n) = exec i s)

/-- R9 and R20: `exec` is total, and no command is ever refused: every step has a next state, it takes exactly
the oldest input, and a command leaves a response (R61). The model's part in this: that the idle step has a next
state (log entry 4, DEDUCED), that a reset is an input and leaves the later ones (log entry 5, DESIGN CHOICE),
and that nothing stops the block (log entry 6, DEDUCED). -/
def Obligations.EveryStepCompletes : Prop :=
  ∀ s : State, ∃ t, step s = .next t ∧ t.inbox = s.inbox.tail ∧
    ∀ w rest, s.inbox = .command w :: rest → t.response.isSome = true

/-- R49: "the block's history is a sequence, and its result is the left fold of `exec` over the commands". -/
def Obligations.HistoryIsLeftFold : Prop :=
  ∀ (s : State) (ws : List CmdWord) (rest : List HostInput),
    s.inbox = ws.map .command ++ rest →
    (∃ t, foldWords ws { s with inbox := rest } = .next t) ∧
    Host.Core.run core ws.length s = foldWords ws { s with inbox := rest }

/-- R9: "`exec : State -> Cmd -> State x Rsp` is a total function", where State is the record of R27 and nothing
more: one function of the record and the word gives every command's registers and response, and the interface
(log entries 1 and 2) has no part in it but to carry the response. -/
def Obligations.ExecIsFunctionOfRecord : Prop :=
  (∃ f : Block → CmdWord → Block × Response, ∀ (w : CmdWord) (s : State),
    execWord w s = .next { s with block := (f s.block w).1, response := some (f s.block w).2 }) ∧
  (∀ b : Block, b = { crcReg := b.crcReg, crcOpen := b.crcOpen, typeReg := b.typeReg }) ∧
  State.reset.block = { crcReg := 0xFFFFFFFF#32, crcOpen := false, typeReg := none }

/-- R209: "the same state and the same command word always give the same response and the same next state",
where the state is the block's four registers. -/
def Obligations.SameRegistersSameOutcome : Prop :=
  ∀ (w : CmdWord) (s s' : State), SameRegisters s s' →
    ∃ t t', execWord w s = .next t ∧ execWord w s' = .next t' ∧ SameRegisters t t' ∧
      t.response = t'.response

/-! ### Encoding -/

/-- Every command's word decodes to that command with every operand. -/
def Obligations.DecodeOfEncode : Prop := ∀ i : Instr, decode (encode i) = .command i

/-- Every word that is a command is that command's encoding, so no legal word has a second meaning. -/
def Obligations.EncodeOfDecode : Prop :=
  ∀ (w : CmdWord) (i : Instr), decode w = .command i → encode i = w

/-- R66: exactly the twelve rows, each with its match value, its mask value and its command with the fields that
R67 passes; a word selects a row iff `(w & mask) == match`, and at most one row. -/
def Obligations.OpcodeTableRows : Prop :=
  (∀ w : CmdWord, opcodeRows.map (fun r => (r.pattern, r.mask, r.build w)) =
    [ (0x0100000000000000#64, 0xFFFFFFFFFFFFFFFF#64, .crcStart),
      (0x0200000000000000#64, 0xFFFFFFFFFFFFFF00#64, .crcByte (w.extractLsb' 0 8)),
      (0x0300000000000000#64, 0xFFFFFFFFFFFFFFFF#64, .crcFinal),
      (0x1000000000000000#64, 0xFFFFFFFF00000000#64, .typeLoad (w.extractLsb' 0 32)),
      (0x1100000000000000#64, 0xFF00FFFF00000000#64, .typeLoads (w.extractLsb' 48 8) (w.extractLsb' 0 32)),
      (0x1200000000000000#64, 0xFFFFFFFFFFFFFFFF#64, .typeRead),
      (0x1300000000000000#64, 0xFFFFFFFF00000000#64, .typeEq (w.extractLsb' 0 32)),
      (0x2000000000000000#64, 0xFFFFFFFFFFFFFFFF#64, .typeIsvalid),
      (0x2100000000000000#64, 0xFFFFFFFFFFFFFFFF#64, .typeIscrit),
      (0x2200000000000000#64, 0xFFFFFFFFFFFFFFFF#64, .typeIspub),
      (0x2300000000000000#64, 0xFFFFFFFFFFFFFFFF#64, .typeIsrsv),
      (0x2400000000000000#64, 0xFFFFFFFFFFFFFFFF#64, .typeIssafe) ]) ∧
  (∀ r ∈ opcodeRows, ∀ w, r.selects w = true ↔ w &&& r.mask = r.pattern) ∧
  opcodeRows.Pairwise (fun r r' => ∀ w, ¬ (r.selects w = true ∧ r'.selects w = true)) ∧
  (∀ r ∈ opcodeRows, ∀ w, w &&& r.mask = r.pattern → decode w = .command (r.build w)) ∧
  (∀ w, (∀ r ∈ opcodeRows, ¬ w &&& r.mask = r.pattern) → ∃ why, decode w = .illegal why)

/-- R68 and R204: the illegal words are exactly those with an unassigned opcode or a must-be-zero bit set, the
listed opcode ranges are unassigned (244 values), the all-zero word is illegal, and executing an illegal word
raises IllegalCommand and changes no register. -/
def Obligations.IllegalWords : Prop :=
  (∀ w, (∃ why, decode w = .illegal why) ↔
    opcodeAssigned w = false ∨ lenAllowed w = false ∨ rsvAllowed w = false ∨ argAllowed w = false) ∧
  (∀ w, opcodeAssigned w = false ↔
    (w.toNat / 2 ^ 56 = 0x00 ∨ (0x04 ≤ w.toNat / 2 ^ 56 ∧ w.toNat / 2 ^ 56 ≤ 0x0F) ∨
      (0x14 ≤ w.toNat / 2 ^ 56 ∧ w.toNat / 2 ^ 56 ≤ 0x1F) ∨
      (0x25 ≤ w.toNat / 2 ^ 56 ∧ w.toNat / 2 ^ 56 ≤ 0xFF))) ∧
  ((List.range 256).filter (fun o => !assignedOpcodes.contains (BitVec.ofNat 8 o))).length = 244 ∧
  (∃ why, decode 0x0000000000000000#64 = .illegal why) ∧
  (∀ w why s, decode w = .illegal why →
    execWord w s = .next { s with response := some ⟨0x05#8, 0x00000000#32⟩ })

/-- Every example of R75, and one word of each remaining command from R60 and R65. -/
def Obligations.EncodingExamples : Prop :=
  decode 0x0100000000000000#64 = .command .crcStart ∧
  decode 0x0200000000000049#64 = .command (.crcByte 0x49#8) ∧
  decode 0x0200000000000061#64 = .command (.crcByte 0x61#8) ∧
  decode 0x0300000000000000#64 = .command .crcFinal ∧
  decode 0x1000000049454E44#64 = .command (.typeLoad 0x49454E44#32) ∧
  decode 0x1000000031323334#64 = .command (.typeLoad 0x31323334#32) ∧
  decode 0x1104000072755374#64 = .command (.typeLoads 4#8 0x72755374#32) ∧
  decode 0x1103000000000000#64 = .command (.typeLoads 3#8 0x00000000#32) ∧
  decode 0x1100000000000000#64 = .command (.typeLoads 0#8 0x00000000#32) ∧
  decode 0x1200000000000000#64 = .command .typeRead ∧
  decode 0x1300000072755374#64 = .command (.typeEq 0x72755374#32) ∧
  decode 0x2000000000000000#64 = .command .typeIsvalid ∧
  decode 0x2100000000000000#64 = .command .typeIscrit ∧
  decode 0x2200000000000000#64 = .command .typeIspub ∧
  decode 0x2300000000000000#64 = .command .typeIsrsv ∧
  decode 0x2400000000000000#64 = .command .typeIssafe

/-! ### The CRC unit's commands -/

/-- R145: CRC_START from any state, an open call included, and its encoding. -/
def Obligations.CrcStartRule : Prop :=
  (∀ w, decode w = .command .crcStart ↔ w &&& 0xFFFFFFFFFFFFFFFF#64 = 0x0100000000000000#64) ∧
  (∀ s, exec .crcStart s = .next { s with
    crcReg := 0xFFFFFFFF#32, crcOpen := true, response := some ⟨0x00#8, 0x00000000#32⟩ })

/-- R146: CRC_BYTE for every byte, with a call open and with none, a word with ARG[31:8] set, and the two worked values. -/
def Obligations.CrcByteRule : Prop :=
  (∀ w b, decode w = .command (.crcByte b) ↔
    w &&& 0xFFFFFFFFFFFFFF00#64 = 0x0200000000000000#64 ∧ b = w.extractLsb' 0 8) ∧
  (∀ b s, s.crcOpen = true → exec (.crcByte b) s = .next { s with
    crcReg := crcStep s.crcReg b, response := some ⟨0x00#8, 0x00000000#32⟩ }) ∧
  (∀ b s, s.crcOpen = false → exec (.crcByte b) s = .next { s with
    response := some ⟨0x04#8, 0x00000000#32⟩ }) ∧
  (∀ w s, opcField w = 0x02#8 → w.extractLsb' 8 24 ≠ 0#24 → execWord w s = .next { s with
    response := some ⟨0x05#8, 0x00000000#32⟩ }) ∧
  crcStep 0xFFFFFFFF#32 0x00#8 = 0x2DFD1072#32 ∧ crcStep 0xFFFFFFFF#32 0x49#8 = 0x22FDE946#32

/-- R147: CRC_FINAL with a call open and with none, the empty call, a second CRC_FINAL, and the IEND example. -/
def Obligations.CrcFinalRule : Prop :=
  (∀ w, decode w = .command .crcFinal ↔ w &&& 0xFFFFFFFFFFFFFFFF#64 = 0x0300000000000000#64) ∧
  (∀ s, s.crcOpen = true → exec .crcFinal s = .next { s with
    crcReg := 0xFFFFFFFF#32, crcOpen := false,
    response := some ⟨0x00#8, s.crcReg ^^^ 0xFFFFFFFF#32⟩ }) ∧
  (∀ s, s.crcOpen = false → exec .crcFinal s = .next { s with
    response := some ⟨0x04#8, 0x00000000#32⟩ }) ∧
  (∀ s, ∃ t, foldWords [encode .crcStart, encode .crcFinal] s = .next t ∧
    t.response = some ⟨0x00#8, 0x00000000#32⟩) ∧
  (∀ s t, exec .crcFinal s = .next t → exec .crcFinal t = .next { t with
    response := some ⟨0x04#8, 0x00000000#32⟩ }) ∧
  (∀ s, ∃ t, foldWords (callWords (ascii "IEND")) s = .next t ∧
    t.response = some ⟨0x00#8, 0xAE426082#32⟩)

/-- R22: CRC_OPEN is 0 at reset, set by CRC_START and cleared by CRC_FINAL; CRC_BYTE and CRC_FINAL raise
CrcNotOpen while it is 0; no other command reads or writes it. -/
def Obligations.CrcOpenFlag : Prop :=
  State.reset.crcOpen = false ∧
  (∀ s t, applyReset s = .next t → t.crcOpen = false) ∧
  (∀ i s t, exec i s = .next t → t.crcOpen =
    (match i with | .crcStart => true | .crcFinal => false | _ => s.crcOpen)) ∧
  (∀ i s, i.needsOpenCall = true → s.crcOpen = false →
    exec i s = .next { s with response := some ⟨0x04#8, 0x00000000#32⟩ }) ∧
  (∀ i s t v, i.isCrc = false → exec i s = .next t →
    exec i { s with crcOpen := v } = .next { t with crcOpen := v })

/-- R141: the byte step as written there (eight conditional shifts of `c ^ zext_32(b)`), and that it takes the
bits of the byte one at a time, bit 0 first. -/
def Obligations.CrcStepBitSerial : Prop :=
  (∀ c b, crcStep c b = (fun c : Word =>
    if c.getLsbD 0 = true then (c >>> 1) ^^^ 0xEDB88320#32 else c >>> 1)^[8] (c ^^^ b.setWidth 32)) ∧
  (∀ c b, crcStep c b = (List.range 8).foldl (fun (c : Word) (j : Nat) =>
    (c >>> 1) ^^^ (if (c.getLsbD 0 ^^ b.getLsbD j) = true then 0xEDB88320#32 else 0#32)) c)

/-! ### The checksum function and its laws -/

/-- R140: the polynomial's coefficients, its bit-reversal, the initial value, the final exclusive-or and the
check value (its numbers beyond the polynomial are the spec's general knowledge, D20 and G1). -/
def Obligations.CrcParameters : Prop :=
  crcPoly = 0x04C11DB7#32 ∧
  ((List.range 32).filter (fun i => crcPoly.getLsbD i) = [0, 1, 2, 4, 5, 7, 8, 10, 11, 12, 16, 22, 23, 26]) ∧
  crcPolyReflected = 0xEDB88320#32 ∧ crcPoly.reverse = crcPolyReflected ∧
  crcInit = 0xFFFFFFFF#32 ∧ crcXorOut = 0xFFFFFFFF#32 ∧
  crc32 (ascii "123456789") = 0xCBF43926#32

/-- R142: the byte step is the table form, with the four entries the rule lists. -/
def Obligations.CrcTableForm : Prop :=
  (∀ i, crcTable i = crcStep 0x00000000#32 i) ∧
  (∀ c b, crcStep c b = crcTable ((c ^^^ b.setWidth 32).extractLsb' 0 8) ^^^ (c >>> 8)) ∧
  crcTable 0x00#8 = 0x00000000#32 ∧ crcTable 0x01#8 = 0x77073096#32 ∧
  crcTable 0x80#8 = 0xEDB88320#32 ∧ crcTable 0xFF#8 = 0x2D02EF8D#32

/-- R143: the function: 0xFFFFFFFF, one CrcStep for each byte in order, and the final exclusive-or. -/
def Obligations.Crc32OfMessage : Prop :=
  crc32 [] = 0x00000000#32 ∧
  (∀ m, crc32 m = m.foldl crcStep 0xFFFFFFFF#32 ^^^ 0xFFFFFFFF#32) ∧
  (∀ m b, crc32 (m ++ [b]) = crcStep (crc32 m ^^^ 0xFFFFFFFF#32) b ^^^ 0xFFFFFFFF#32)

/-- R148: from any state, CRC_START, any inputs that R148 allows (CRC_BYTEs, TYPE commands, illegal words) and
CRC_FINAL return the checksum of the bytes fed, and leave the CRC registers as no call had been. -/
def Obligations.CallComputesCrc32 : Prop :=
  ∀ (s : State) (body rest : List HostInput),
    (∀ x ∈ body, insideCall x = true) →
    s.inbox = .command (encode .crcStart) :: (body ++ .command (encode .crcFinal) :: rest) →
    ∃ t, Host.Core.run core (body.length + 2) s = .next t ∧
      t.response = some ⟨0x00#8, crc32 (fedBytes body)⟩ ∧
      t.crcReg = 0xFFFFFFFF#32 ∧ t.crcOpen = false ∧ t.inbox = rest

/-- R149: a call's result depends only on its CRC_BYTE operands: two calls that feed the same bytes, from any
two states and with any other commands interleaved, return the same response. -/
def Obligations.CallsAreIndependent : Prop :=
  (∀ s s', ∃ t t', exec .crcStart s = .next t ∧ exec .crcStart s' = .next t' ∧
    t.crcReg = t'.crcReg ∧ t.crcOpen = t'.crcOpen) ∧
  ∀ (s s' : State) (body body' rest rest' : List HostInput),
    (∀ x ∈ body, insideCall x = true) → (∀ x ∈ body', insideCall x = true) →
    fedBytes body = fedBytes body' →
    s.inbox = .command (encode .crcStart) :: (body ++ .command (encode .crcFinal) :: rest) →
    s'.inbox = .command (encode .crcStart) :: (body' ++ .command (encode .crcFinal) :: rest') →
    ∃ t t', Host.Core.run core (body.length + 2) s = .next t ∧
      Host.Core.run core (body'.length + 2) s' = .next t' ∧ t.response = t'.response

/-- R150: "the checksum is affine over GF(2)". -/
def Obligations.Crc32IsAffine : Prop :=
  ∀ a e : List Byte, a.length = e.length →
    crc32 (List.zipWith (fun x y => x ^^^ y) a e) = crc32 a ^^^ crc0 e

/-- R151: "Any change confined to one byte of a message changes its checksum". -/
def Obligations.OneByteChangeDetected : Prop :=
  ∀ (before after : List Byte) (b d : Byte), d ≠ 0x00#8 →
    crc32 (before ++ (b ^^^ d) :: after) ≠ crc32 (before ++ b :: after)

/-- R152: the residue of a message with its checksum appended in little-endian order. -/
def Obligations.ResidueLittleEndian : Prop :=
  ∀ m : List Byte, crc32 (m ++ wordBytesLe (crc32 m)) = 0x2144DF1C#32

/-- R144: bit 31 - i of `crc32(M) ^ 0xFFFFFFFF` is the coefficient of x^i of r(x), over the field of two elements. -/
def Obligations.Crc32IsPolynomialRemainder : Prop :=
  ∀ (m : List Byte) (i : Nat), i < 32 →
    ((crc32 m ^^^ 0xFFFFFFFF#32).getLsbD (31 - i) = true ↔ (remainderPoly m).coeff i = 1)

/-! ### The TYPE unit's commands -/

/-- R100: the alphabetic test on every byte, and the neighbours it rejects. -/
def Obligations.AlphabeticBytes : Prop :=
  (∀ b : Byte, alpha b = true ↔
    (0x41 ≤ b.toNat ∧ b.toNat ≤ 0x5A) ∨ (0x61 ≤ b.toNat ∧ b.toNat ≤ 0x7A)) ∧
  (∀ b : Byte, b.getLsbD 7 = true → alpha b = false) ∧
  alpha 0x40#8 = false ∧ alpha 0x5B#8 = false ∧ alpha 0x60#8 = false ∧ alpha 0x7B#8 = false

/-- R43: byte i of a type word is `w[31-8i : 24-8i]`, packing and unpacking are inverse, and the same packing
stands in TYPE_LOAD's, TYPE_LOADS's and TYPE_EQ's ARG, TYPE_REG, and TYPE_READ's RESULT. -/
def Obligations.TypeWordPacking : Prop :=
  (∀ w i, typeByte w i = w.extractLsb' (24 - 8 * i.val) 8) ∧
  (∀ b0 b1 b2 b3, typeByte (typeWord b0 b1 b2 b3) 0 = b0 ∧ typeByte (typeWord b0 b1 b2 b3) 1 = b1 ∧
    typeByte (typeWord b0 b1 b2 b3) 2 = b2 ∧ typeByte (typeWord b0 b1 b2 b3) 3 = b3) ∧
  (∀ w, typeWord (typeByte w 0) (typeByte w 1) (typeByte w 2) (typeByte w 3) = w) ∧
  typeWord 0x49#8 0x45#8 0x4E#8 0x44#8 = 0x49454E44#32 ∧
  (∀ b0 b1 b2 b3 s load, alpha b0 = true → alpha b1 = true → alpha b2 = true → alpha b3 = true →
    load = Instr.typeLoad (typeWord b0 b1 b2 b3) ∨ load = Instr.typeLoads 4#8 (typeWord b0 b1 b2 b3) →
    ∃ t, exec load s = .next t ∧ t.typeReg = some (typeWord b0 b1 b2 b3) ∧
      exec .typeRead t = .next { t with response := some ⟨0x00#8, typeWord b0 b1 b2 b3⟩ } ∧
      exec (.typeEq (typeWord b0 b1 b2 b3)) t =
        .next { t with response := some ⟨0x00#8, 0x00000001#32⟩ })

/-- R102: TYPE_LOAD accepts exactly the alphabetic codes, reserved bit set or not, and a failure writes nothing. -/
def Obligations.TypeLoadRule : Prop :=
  (∀ w arg, decode w = .command (.typeLoad arg) ↔
    w &&& 0xFFFFFFFF00000000#64 = 0x1000000000000000#64 ∧ arg = w.extractLsb' 0 32) ∧
  (∀ arg s, (∀ i, alpha (typeByte arg i) = true) → exec (.typeLoad arg) s = .next { s with
    typeReg := some arg, response := some ⟨0x00#8, 0x00000000#32⟩ }) ∧
  (∀ arg s, (∃ i, alpha (typeByte arg i) = false) → exec (.typeLoad arg) s = .next { s with
    response := some ⟨0x01#8, 0x00000000#32⟩ }) ∧
  (∀ arg s i, (typeByte arg i ∈ [0x40#8, 0x5B#8, 0x60#8, 0x7B#8] ∨ 0x80#8 ≤ typeByte arg i) →
    exec (.typeLoad arg) s = .next { s with response := some ⟨0x01#8, 0x00000000#32⟩ }) ∧
  (∀ arg s t, exec (.typeLoad arg) s = .next t → exec (.typeLoad arg) t = .next t) ∧
  (∀ s, execWord 0x1000000031323334#64 s = .next { s with response := some ⟨0x01#8, 0x00000000#32⟩ })

/-- R103: TYPE_LOADS checks the length first, ignores ARG if it is not 4, and otherwise loads as TYPE_LOAD does. -/
def Obligations.TypeLoadsRule : Prop :=
  (∀ w len arg, decode w = .command (.typeLoads len arg) ↔
    w &&& 0xFF00FFFF00000000#64 = 0x1100000000000000#64 ∧ len = w.extractLsb' 48 8 ∧
      arg = w.extractLsb' 0 32) ∧
  (∀ len arg s, len ≠ 4#8 → exec (.typeLoads len arg) s = .next { s with
    response := some ⟨0x02#8, 0x00000000#32⟩ }) ∧
  (∀ arg s, (∀ i, alpha (typeByte arg i) = true) → exec (.typeLoads 4#8 arg) s = .next { s with
    typeReg := some arg, response := some ⟨0x00#8, 0x00000000#32⟩ }) ∧
  (∀ arg s, (∃ i, alpha (typeByte arg i) = false) → exec (.typeLoads 4#8 arg) s = .next { s with
    response := some ⟨0x01#8, 0x00000000#32⟩ }) ∧
  (∀ s, execWord 0x1104000072755374#64 s = .next { s with
    typeReg := some 0x72755374#32, response := some ⟨0x00#8, 0x00000000#32⟩ })

/-- R104: TYPE_READ returns the loaded code, or NoType; a reachable result is four alphabetic bytes. -/
def Obligations.TypeReadRule : Prop :=
  (∀ w, decode w = .command .typeRead ↔ w &&& 0xFFFFFFFFFFFFFFFF#64 = 0x1200000000000000#64) ∧
  (∀ s w, s.typeReg = some w → exec .typeRead s = .next { s with response := some ⟨0x00#8, w⟩ }) ∧
  (∀ s, s.typeReg = none → exec .typeRead s = .next { s with response := some ⟨0x03#8, 0x00000000#32⟩ }) ∧
  (∀ s t r, TypeInv s → exec .typeRead s = .next t → t.response = some r → r.status = 0x00#8 →
    ∀ i, alpha (typeByte r.result i) = true) ∧
  (∀ s, ∃ t, foldWords [0x1000000049454E44#64, 0x1200000000000000#64] s = .next t ∧
    t.response = some ⟨0x00#8, 0x49454E44#32⟩)

/-- R105: TYPE_EQ compares all 32 bits raw, or raises NoType; a non-alphabetic ARG equals no reachable code. -/
def Obligations.TypeEqRule : Prop :=
  (∀ w arg, decode w = .command (.typeEq arg) ↔
    w &&& 0xFFFFFFFF00000000#64 = 0x1300000000000000#64 ∧ arg = w.extractLsb' 0 32) ∧
  (∀ s w arg, s.typeReg = some w → exec (.typeEq arg) s = .next { s with
    response := some ⟨0x00#8, if w = arg then 0x00000001#32 else 0x00000000#32⟩ }) ∧
  (∀ s arg, s.typeReg = none → exec (.typeEq arg) s = .next { s with
    response := some ⟨0x03#8, 0x00000000#32⟩ }) ∧
  (∀ s w arg, TypeInv s → s.typeReg = some w → (∃ i, alpha (typeByte arg i) = false) →
    exec (.typeEq arg) s = .next { s with response := some ⟨0x00#8, 0x00000000#32⟩ }) ∧
  (∀ s, ∃ t t', foldWords [0x1104000072755374#64, 0x1300000072755374#64] s = .next t ∧
    t.response = some ⟨0x00#8, 0x00000001#32⟩ ∧
    foldWords [0x1104000072755374#64, 0x1300000052755374#64] s = .next t' ∧
    t'.response = some ⟨0x00#8, 0x00000000#32⟩)

/-- R106: TYPE_ISVALID is 1 iff all bytes are alphabetic and bit 13 is 0; on a reachable state it is TYPE_ISRSV. -/
def Obligations.TypeIsvalidRule : Prop :=
  (∀ w, decode w = .command .typeIsvalid ↔ w &&& 0xFFFFFFFFFFFFFFFF#64 = 0x2000000000000000#64) ∧
  (∀ s w, s.typeReg = some w → exec .typeIsvalid s = .next { s with response := some ⟨0x00#8,
    if (∀ i, alpha (typeByte w i) = true) ∧ w.getLsbD 13 = false then 0x00000001#32 else 0x00000000#32⟩ }) ∧
  (∀ s, s.typeReg = none → exec .typeIsvalid s = .next { s with
    response := some ⟨0x03#8, 0x00000000#32⟩ }) ∧
  (∀ s, TypeInv s → exec .typeIsvalid s = exec .typeIsrsv s) ∧
  (∀ s, ∃ t t', foldWords [0x1000000052755374#64, 0x2000000000000000#64] s = .next t ∧
    t.response = some ⟨0x00#8, 0x00000001#32⟩ ∧
    foldWords [0x1000000052757374#64, 0x2000000000000000#64] s = .next t' ∧
    t'.response = some ⟨0x00#8, 0x00000000#32⟩ ∧ t'.typeReg = some 0x52757374#32)

/-- R107: TYPE_ISCRIT is 1 iff TYPE_REG[29] = 0. -/
def Obligations.TypeIscritRule : Prop :=
  (∀ w, decode w = .command .typeIscrit ↔ w &&& 0xFFFFFFFFFFFFFFFF#64 = 0x2100000000000000#64) ∧
  (∀ s w, s.typeReg = some w → exec .typeIscrit s = .next { s with response := some ⟨0x00#8,
    if w.getLsbD 29 = false then 0x00000001#32 else 0x00000000#32⟩ }) ∧
  (∀ s, s.typeReg = none → exec .typeIscrit s = .next { s with
    response := some ⟨0x03#8, 0x00000000#32⟩ }) ∧
  (∀ s, ∃ t t', foldWords [0x1000000049484452#64, 0x2100000000000000#64] s = .next t ∧
    t.response = some ⟨0x00#8, 0x00000001#32⟩ ∧
    foldWords [0x1000000072755374#64, 0x2100000000000000#64] s = .next t' ∧
    t'.response = some ⟨0x00#8, 0x00000000#32⟩)

/-- TYPE_ISPUB is 1 iff TYPE_REG[21] = 0; the polarity is the spec's own choice, D9: "public iff bit 5 of byte 1 = 0". -/
def Obligations.TypeIspubRule : Prop :=
  (∀ w, decode w = .command .typeIspub ↔ w &&& 0xFFFFFFFFFFFFFFFF#64 = 0x2200000000000000#64) ∧
  (∀ s w, s.typeReg = some w → exec .typeIspub s = .next { s with response := some ⟨0x00#8,
    if w.getLsbD 21 = false then 0x00000001#32 else 0x00000000#32⟩ }) ∧
  (∀ s, s.typeReg = none → exec .typeIspub s = .next { s with
    response := some ⟨0x03#8, 0x00000000#32⟩ }) ∧
  (∀ s, ∃ t t', foldWords [0x1000000049444154#64, 0x2200000000000000#64] s = .next t ∧
    t.response = some ⟨0x00#8, 0x00000001#32⟩ ∧
    foldWords [0x1000000072755374#64, 0x2200000000000000#64] s = .next t' ∧
    t'.response = some ⟨0x00#8, 0x00000000#32⟩)

/-- R109: TYPE_ISRSV is 1 iff TYPE_REG[13] = 0, and on a reachable state it is TYPE_ISVALID. -/
def Obligations.TypeIsrsvRule : Prop :=
  (∀ w, decode w = .command .typeIsrsv ↔ w &&& 0xFFFFFFFFFFFFFFFF#64 = 0x2300000000000000#64) ∧
  (∀ s w, s.typeReg = some w → exec .typeIsrsv s = .next { s with response := some ⟨0x00#8,
    if w.getLsbD 13 = false then 0x00000001#32 else 0x00000000#32⟩ }) ∧
  (∀ s, s.typeReg = none → exec .typeIsrsv s = .next { s with
    response := some ⟨0x03#8, 0x00000000#32⟩ }) ∧
  (∀ s, TypeInv s → exec .typeIsrsv s = exec .typeIsvalid s) ∧
  (∀ s, ∃ t t', foldWords [0x1000000072755374#64, 0x2300000000000000#64] s = .next t ∧
    t.response = some ⟨0x00#8, 0x00000001#32⟩ ∧
    foldWords [0x100000007A7A7A7A#64, 0x2300000000000000#64] s = .next t' ∧
    t'.response = some ⟨0x00#8, 0x00000000#32⟩)

/-- TYPE_ISSAFE is 1 iff TYPE_REG[5] = 1; the polarity is the spec's own choice, D9: "safe-to-copy iff bit 5 of byte 3 = 1". -/
def Obligations.TypeIssafeRule : Prop :=
  (∀ w, decode w = .command .typeIssafe ↔ w &&& 0xFFFFFFFFFFFFFFFF#64 = 0x2400000000000000#64) ∧
  (∀ s w, s.typeReg = some w → exec .typeIssafe s = .next { s with response := some ⟨0x00#8,
    if w.getLsbD 5 = true then 0x00000001#32 else 0x00000000#32⟩ }) ∧
  (∀ s, s.typeReg = none → exec .typeIssafe s = .next { s with
    response := some ⟨0x03#8, 0x00000000#32⟩ }) ∧
  (∀ s, ∃ t t', foldWords [0x1000000072755374#64, 0x2400000000000000#64] s = .next t ∧
    t.response = some ⟨0x00#8, 0x00000001#32⟩ ∧
    foldWords [0x1000000049454E44#64, 0x2400000000000000#64] s = .next t' ∧
    t'.response = some ⟨0x00#8, 0x00000000#32⟩)

/-- R23 and R24: TYPE_REG is written whole, and only by a load that completes with OK; TYPE_LOADED is then set,
and nothing clears it except reset, which is an input of a step by the model's choice (log entry 5). -/
def Obligations.TypeRegisterWrites : Prop :=
  (∀ i s t, exec i s = .next t →
    (t.typeReg = s.typeReg ∨
      ∃ arg, (i = .typeLoad arg ∨ i = .typeLoads 4#8 arg) ∧ (∀ k, alpha (typeByte arg k) = true) ∧
        t.typeReg = some arg ∧ t.response = some ⟨0x00#8, 0x00000000#32⟩)) ∧
  (∀ s t, step s = .next t → s.typeReg.isSome = true → t.typeReg.isSome = false →
    ∃ rest, s.inbox = .reset :: rest)

/-- R111: for an alphabetic byte, bit 5 clear is an upper-case letter and bit 5 set a lower-case one, so the
four properties of a loaded code are the cases of its letters. -/
def Obligations.LetterCaseProperties : Prop :=
  (∀ b : Byte, alpha b = true →
    ((b.getLsbD 5 = false ↔ 0x41 ≤ b.toNat ∧ b.toNat ≤ 0x5A) ∧
      (b.getLsbD 5 = true ↔ 0x61 ≤ b.toNat ∧ b.toNat ≤ 0x7A))) ∧
  (∀ w, (∀ i, alpha (typeByte w i) = true) →
    (crit w = true ↔ (typeByte w 0).toNat ≤ 0x5A) ∧ (pub w = true ↔ (typeByte w 1).toNat ≤ 0x5A) ∧
    (rsvok w = true ↔ (typeByte w 2).toNat ≤ 0x5A) ∧ (valid w = true ↔ (typeByte w 2).toNat ≤ 0x5A) ∧
    (safe w = true ↔ 0x61 ≤ (typeByte w 3).toNat))

/-- R112: each property result of a loaded code depends on its own bit only, and every one of the 16
combinations is reached by some alphabetic code. -/
def Obligations.PropertyCombinations : Prop :=
  (∀ w w', (w.getLsbD 29 = w'.getLsbD 29 → crit w = crit w') ∧
    (w.getLsbD 21 = w'.getLsbD 21 → pub w = pub w') ∧
    (w.getLsbD 13 = w'.getLsbD 13 → rsvok w = rsvok w') ∧
    (w.getLsbD 5 = w'.getLsbD 5 → safe w = safe w')) ∧
  (∀ w w', allAlpha w = true → allAlpha w' = true → w.getLsbD 13 = w'.getLsbD 13 → valid w = valid w') ∧
  (∀ a b c d : Bool, ∃ w, (∀ i, alpha (typeByte w i) = true) ∧
    crit w = a ∧ pub w = b ∧ rsvok w = c ∧ safe w = d)

/-! ### Errors and separation of the units -/

/-- R200: an error response has RESULT 0 and writes no register of the block. -/
def Obligations.ErrorsWriteNothing : Prop :=
  ∀ (w : CmdWord) (s t : State) (r : Response), execWord w s = .next t → t.response = some r →
    r.status ≠ 0x00#8 → r.result = 0x00000000#32 ∧ t = { s with response := some r }

/-- R210, with the causes of R202 to R206: the one status that a command word reports, by the first condition that holds. -/
def Obligations.StatusPriority : Prop :=
  ∀ (w : CmdWord) (s : State), ∃ t r, execWord w s = .next t ∧ t.response = some r ∧
    match decode w with
    | .illegal _ => r.status = 0x05#8
    | .command i => r.status =
      (if i.isTypeReader && s.typeReg.isNone then 0x03#8
      else if i.needsOpenCall && !s.crcOpen then 0x04#8
      else if i.badLength then 0x02#8
      else if i.badCharacter then 0x01#8
      else 0x00#8)

/-- The two units share nothing (R148: "TYPE commands neither read nor write CRC_REG or CRC_OPEN"; R21 to R24
for the CRC commands): a command of one unit leaves the other's registers, and its outcome does not depend on them. -/
def Obligations.UnitsAreSeparate : Prop :=
  ∀ (i : Instr) (s : State) (c : Word) (o : Bool) (ty : Option Word),
    (i.isCrc = false → ∃ t, exec i s = .next t ∧ t.crcReg = s.crcReg ∧ t.crcOpen = s.crcOpen ∧
      exec i { s with crcReg := c, crcOpen := o } = .next { t with crcReg := c, crcOpen := o }) ∧
    (i.isCrc = true → ∃ t, exec i s = .next t ∧ t.typeReg = s.typeReg ∧
      exec i { s with typeReg := ty } = .next { t with typeReg := ty })

/-- R47: the seven TYPE readers write no register and are idempotent; CRC_FINAL is not, since a second one
raises CrcNotOpen. -/
def Obligations.ReadersAreIdempotent : Prop :=
  (∀ i s, i.isTypeReader = true → ∃ t, exec i s = .next t ∧ SameRegisters s t ∧ exec i t = .next t) ∧
  (∀ s, s.crcOpen = true → ∃ t, exec .crcFinal s = .next t ∧ exec .crcFinal t ≠ .next t)

/-- R233: a host that does both duties, issuing CRC_START first and loading a type before reading it, never gets
CrcNotOpen or NoType, however long its sequence of inputs. A reset among them, after which both duties begin
anew, is an input by the model's choice (log entry 5). -/
def Obligations.DutifulHostNeverTurnedAway : Prop :=
  ∀ (s : State) (xs rest : List HostInput) (k : Nat) (t : State) (r : Response),
    s.inbox = xs ++ rest → doesDuties s.crcOpen s.typeReg.isSome xs = true →
    0 < k → k ≤ xs.length → Host.Core.run core k s = .next t → t.response = some r →
    r.status ≠ 0x03#8 ∧ r.status ≠ 0x04#8

/-! ### The host's side: operands, assembler, chunks -/

/-- R62 and R73: what `type.loads STR` does for a string of any length: saturating LEN changes no outcome. -/
def Obligations.StringLoadOutcome : Prop :=
  (∀ n, lenOperand n = BitVec.ofNat 8 (min n 255)) ∧
  (∀ n, lenOperand n = 4#8 ↔ n = 4) ∧
  (∀ str : List Byte, assemble (.typeLoads str) =
    [encode (.typeLoads (lenOperand str.length) (stringArg str))] ∧
    (Instr.typeLoads (lenOperand str.length) (stringArg str)).asmForm = true) ∧
  (∀ b0 b1 b2 b3, stringArg [b0, b1, b2, b3] = typeWord b0 b1 b2 b3) ∧
  (∀ str : List Byte, str.length ≠ 4 → stringArg str = 0x00000000#32 ∧
    ∀ s, foldWords (assemble (.typeLoads str)) s = .next { s with
      response := some ⟨0x02#8, 0x00000000#32⟩ }) ∧
  (∀ b0 b1 b2 b3 s, foldWords (assemble (.typeLoads [b0, b1, b2, b3])) s =
    exec (.typeLoad (typeWord b0 b1 b2 b3)) s)

/-- R74: the expansions of the pseudo-instructions, and that `crc32 STR` returns `crc32(STR)` from any state. -/
def Obligations.PseudoInstructions : Prop :=
  assemble (.crcBytes []) = [] ∧
  (∀ b bs, assemble (.crcBytes (b :: bs)) = assemble (.crcByte b) ++ assemble (.crcBytes bs)) ∧
  (∀ v : Word, assemble (.crcWord v) = assemble (.crcByte (v.extractLsb' 24 8)) ++
    assemble (.crcByte (v.extractLsb' 16 8)) ++ assemble (.crcByte (v.extractLsb' 8 8)) ++
    assemble (.crcByte (v.extractLsb' 0 8))) ∧
  (∀ str, assemble (.crc32 str) =
    assemble .crcStart ++ assemble (.crcBytes str) ++ assemble .crcFinal) ∧
  (∀ (str : List Byte) (s : State), ∃ t, foldWords (assemble (.crc32 str)) s = .next t ∧
    t.response = some ⟨0x00#8, crc32 str⟩)

/-- R71 and R72, for a string operand without a quote or a backslash: its bytes are taken as they stand, a
semicolon or a comma in it included. -/
def Obligations.StringOperandText : Prop :=
  ∀ str : List Byte, (∀ c ∈ str, c ≠ chDoubleQuote ∧ c ≠ chBackslash) →
    assembleLine (ascii "type.loads \"" ++ str ++ ascii "\"") = some (assemble (.typeLoads str)) ∧
    assembleLine (ascii "crc32 \"" ++ str ++ ascii "\" ; note") = some (assemble (.crc32 str))

/-- R71 and R72, for character and type literals: every byte may stand in `'c'`, and every four bytes in `'ABCD'`,
before a comment and, for `'c'`, before a comma; a separator in a literal separates nothing. That an apostrophe may
stand there too is the model's choice; left out is a type literal with an apostrophe second and a separator third, whose
first characters read as a character literal of their own (log entry 8). -/
def Obligations.QuotedOperandText : Prop :=
  (∀ c : Byte,
    assembleLine (ascii "crc.byte '" ++ [c] ++ ascii "' ; note") = some (assemble (.crcByte c)) ∧
    assembleLine (ascii "crc.bytes '" ++ [c] ++ ascii "', 1") = some (assemble (.crcBytes [c, 0x01#8]))) ∧
  (∀ c0 c1 c2 c3 : Byte, ¬ (c1 = chQuote ∧ endsOperand [c2] = true) →
    assembleLine (ascii "type.load '" ++ [c0, c1, c2, c3] ++ ascii "' ; note") =
      some (assemble (.typeLoad (typeWord c0 c1 c2 c3))))

/-- R41, R42 and R44: a checksum goes on the wire most significant byte first and is read back as it was written;
the message of a chunk is its four type bytes, byte 0 first, and then its data; a chunk with n data bytes occupies
12 + n bytes, of which the CRC unit sees the 4 + n of type and data. That longer data has no form is the model's
choice (log entry 9). -/
def Obligations.ChunkLayout : Prop :=
  (∀ v : Word, wordBytes v = [v.extractLsb' 24 8, v.extractLsb' 16 8, v.extractLsb' 8 8, v.extractLsb' 0 8]) ∧
  (∀ v, storedChecksum (v.extractLsb' 24 8) (v.extractLsb' 16 8) (v.extractLsb' 8 8) (v.extractLsb' 0 8) = v) ∧
  wordBytes 0xAE426082#32 = [0xAE#8, 0x42#8, 0x60#8, 0x82#8] ∧
  (∀ type data, chunkMessage type data =
    [typeByte type 0, typeByte type 1, typeByte type 2, typeByte type 3] ++ data) ∧
  (∀ type data, (chunkMessage type data).length = 4 + data.length) ∧
  (∀ type data, data.length < 2 ^ 32 → ∃ bytes, serializeChunk type data = some bytes ∧
    bytes.length = 12 + data.length ∧
    bytes.take 4 = wordBytes (BitVec.ofNat 32 data.length) ∧
    (bytes.drop 4).take (4 + data.length) = chunkMessage type data ∧
    bytes.drop (8 + data.length) = wordBytes (crc32 (chunkMessage type data)))

/-- R207 with R148 and R151: the host that runs one call over type ++ data from any state, and compares its
RESULT with the stored checksum, accepts every chunk as it wrote it, an empty one included, and detects any change of one data byte. -/
def Obligations.CorruptedChunkDetected : Prop :=
  (∀ (s : State) (type : Word) (data : List Byte),
    ∃ t, foldWords (callWords (chunkMessage type data)) s = .next t ∧
      ∃ v, t.response = some ⟨0x00#8, v⟩ ∧ checksumMismatch (crc32 (chunkMessage type data)) v = false) ∧
  (∀ (s : State) (type : Word) (before after : List Byte) (b d : Byte), d ≠ 0x00#8 →
    ∃ t, foldWords (callWords (chunkMessage type (before ++ (b ^^^ d) :: after))) s = .next t ∧
      ∃ v, t.response = some ⟨0x00#8, v⟩ ∧
        checksumMismatch (crc32 (chunkMessage type (before ++ b :: after))) v = true)
end

