-- ==== Sys2Proof/Config.lean ====
section
/-! DEFINITION. What the spec leaves to an implementation. Every number that a rule fixes stands in Machine/ instead. -/

namespace Sys2Proof

/-- `CMD_LATENCY`, the time from the n-th command's issue to its response: finite, possibly different for
each command, and unobservable (00_scope R5, 70 R237, D18, U7; log entry 7). Its value is open, and no
definition of the model reads it: "A model gives the block no clock". -/
opaque Config.cmdLatency : Nat → Nat

end Sys2Proof
end

