-- ==== Sys2Proof/Laws/Crc.lean ====
section
/-! SUPPORT. The CRC datapath: one shift is linear over GF(2) and loses nothing, and so is every number of shifts. -/

namespace Sys2Proof.Machine

/-- The shift without a branch. -/
theorem crcShift_eq (c : Word) :
    crcShift c = (c >>> 1) ^^^ (if c.getLsbD 0 then crcPolyReflected else 0#32) := by
  unfold crcShift
  split <;> simp

@[simp] theorem crcShift_zero : crcShift 0#32 = 0#32 := by decide

theorem crcShift_xor (a b : Word) : crcShift (a ^^^ b) = crcShift a ^^^ crcShift b := by
  rw [crcShift_eq, crcShift_eq, crcShift_eq, BitVec.ushiftRight_xor_distrib, BitVec.getLsbD_xor]
  have hk : (if (a.getLsbD 0 ^^ b.getLsbD 0) = true then crcPolyReflected else 0#32) =
      (if a.getLsbD 0 = true then crcPolyReflected else 0#32) ^^^
        (if b.getLsbD 0 = true then crcPolyReflected else 0#32) := by
    cases a.getLsbD 0 <;> cases b.getLsbD 0 <;> simp
  rw [hk]
  ac_rfl

/-- Only the zero register shifts to zero: the constant's top bit says whether it was added. -/
theorem crcShift_eq_zero {c : Word} (h : crcShift c = 0#32) : c = 0#32 := by
  have hbit : ∀ i, (crcShift c).getLsbD i = false := by simp [h]
  rw [crcShift_eq] at hbit
  have h31 := hbit 31
  cases hc : c.getLsbD 0 with
  | true => simp [hc, crcPolyReflected] at h31
  | false =>
    apply BitVec.eq_of_getLsbD_eq
    intro i hi
    cases i with
    | zero => simpa using hc
    | succ j =>
      have hj := hbit j
      rw [hc] at hj
      simpa [Nat.add_comm] using hj

theorem crcShift_injective {a b : Word} (h : crcShift a = crcShift b) : a = b := by
  have hz : crcShift (a ^^^ b) = 0#32 := by rw [crcShift_xor, h, BitVec.xor_self]
  exact BitVec.xor_eq_zero_iff.mp (crcShift_eq_zero hz)

theorem crcShiftN_xor (n : Nat) (a b : Word) : crcShiftN n (a ^^^ b) = crcShiftN n a ^^^ crcShiftN n b := by
  induction n generalizing a b with
  | zero => rfl
  | succ n ih => rw [crcShiftN, crcShift_xor, ih, crcShiftN, crcShiftN]

theorem crcShiftN_injective (n : Nat) {a b : Word} (h : crcShiftN n a = crcShiftN n b) : a = b := by
  induction n generalizing a b with
  | zero => exact h
  | succ n ih => exact crcShift_injective (ih h)

theorem crcFold_append (c : Word) (m m' : List Byte) : crcFold c (m ++ m') = crcFold (crcFold c m) m' := by
  simp [crcFold]

@[simp] theorem crcFold_nil (c : Word) : crcFold c [] = c := rfl

@[simp] theorem crcFold_cons (c : Word) (b : Byte) (m : List Byte) :
    crcFold c (b :: m) = crcFold (crcStep c b) m := rfl

end Sys2Proof.Machine
end

