-- ==== Sys2Proof/Laws/Decode.lean ====
section
/-! SUPPORT. What the decoder can answer, and the fields of the words the encoder makes. -/

namespace Sys2Proof

/-- A row that R67's loop selects matches the word, and gives the instruction. -/
theorem decodeRows_some {rs : List OpcodeRow} {w : CmdWord} {i : Instr}
    (h : decodeRows rs w = some i) : ∃ r ∈ rs, w &&& r.mask = r.pattern ∧ i = r.build w := by
  induction rs with
  | nil => simp [decodeRows] at h
  | cons r rs ih =>
    rw [decodeRows] at h
    split at h
    · rename_i hs
      exact ⟨r, by simp, by simpa [OpcodeRow.selects] using hs, by simpa using h.symm⟩
    · obtain ⟨r', hr, hw⟩ := ih h
      exact ⟨r', by simp [hr], hw⟩

/-- The loop finds nothing iff no row matches. -/
theorem decodeRows_none {rs : List OpcodeRow} {w : CmdWord} :
    decodeRows rs w = none ↔ ∀ r ∈ rs, ¬ w &&& r.mask = r.pattern := by
  induction rs with
  | nil => simp [decodeRows]
  | cons r rs ih =>
    rw [decodeRows, List.forall_mem_cons, ← ih]
    by_cases hw : w &&& r.mask = r.pattern <;> simp [OpcodeRow.selects, hw]

theorem decode_command {w : CmdWord} {i : Instr} :
    decode w = .command i ↔ decodeRows opcodeRows w = some i := by
  unfold decode
  split <;> simp_all

theorem decode_illegal {w : CmdWord} {why : IllegalReason} (h : decode w = .illegal why) :
    decodeRows opcodeRows w = none ∧ why = illegalReason w := by
  unfold decode at h
  split at h <;> simp_all

theorem commandWord_opc (opc len : Byte) (arg : Word) : opcField (commandWord opc len arg) = opc := by
  ext i; simp [opcField, commandWord]; grind

theorem commandWord_len (opc len : Byte) (arg : Word) : lenField (commandWord opc len arg) = len := by
  ext i; simp [lenField, commandWord]; grind

theorem commandWord_rsv (opc len : Byte) (arg : Word) : rsvField (commandWord opc len arg) = 0#16 := by
  ext i; simp [rsvField, commandWord]; grind

theorem commandWord_arg (opc len : Byte) (arg : Word) : argField (commandWord opc len arg) = arg := by
  ext i; simp [argField, commandWord]; grind

end Sys2Proof
end

