-- ==== Sys2Proof/Laws/Flags.lean ====
section
/-! SUPPORT. The flag computations in the terms the rules use: all four bytes, and TYPE_REG's own bits. -/

namespace Sys2Proof.Machine

theorem allAlpha_iff (w : Word) : allAlpha w = true ↔ ∀ i, alpha (typeByte w i) = true := by
  simp [allAlpha, Fin.forall_fin_succ, and_assoc]

theorem allAlpha_eq_false_iff (w : Word) : allAlpha w = false ↔ ∃ i, alpha (typeByte w i) = false := by
  rw [← Bool.not_eq_true, allAlpha_iff, not_forall]
  simp

/-- "Byte i's bit 5 is w[29 - 8i]" (40 R101). -/
theorem propertyBit_eq (w : Word) (i : Fin 4) : propertyBit w i = w.getLsbD (29 - 8 * i.val) := by
  have hi : 24 - 8 * i.val + 5 = 29 - 8 * i.val := by omega
  simp [propertyBit, typeByte, hi]

theorem valid_of_allAlpha {w : Word} (h : allAlpha w = true) : valid w = rsvok w := by
  simp [valid, h]

@[simp] theorem boolResult_true : boolResult true = 0x00000001#32 := rfl

@[simp] theorem boolResult_false : boolResult false = 0x00000000#32 := rfl

end Sys2Proof.Machine
end

