-- ==== Sys2Proof/Laws/State.lean ====
section
/-! SUPPORT. One lemma for each field and each update of the block and of State, and for each field at reset. -/

namespace Sys2Proof.Machine

@[simp] theorem setCrcReg_crcReg (b : Block) (v : Word) : (setCrcReg b v).crcReg = v := rfl
@[simp] theorem setCrcReg_crcOpen (b : Block) (v : Word) : (setCrcReg b v).crcOpen = b.crcOpen := rfl
@[simp] theorem setCrcReg_typeReg (b : Block) (v : Word) : (setCrcReg b v).typeReg = b.typeReg := rfl

@[simp] theorem setCrcOpen_crcReg (b : Block) (v : Bool) : (setCrcOpen b v).crcReg = b.crcReg := rfl
@[simp] theorem setCrcOpen_crcOpen (b : Block) (v : Bool) : (setCrcOpen b v).crcOpen = v := rfl
@[simp] theorem setCrcOpen_typeReg (b : Block) (v : Bool) : (setCrcOpen b v).typeReg = b.typeReg := rfl

@[simp] theorem setType_crcReg (b : Block) (w : Word) : (setType b w).crcReg = b.crcReg := rfl
@[simp] theorem setType_crcOpen (b : Block) (w : Word) : (setType b w).crcOpen = b.crcOpen := rfl
@[simp] theorem setType_typeReg (b : Block) (w : Word) : (setType b w).typeReg = some w := rfl

@[simp] theorem setInbox_block (s : State) (xs : List HostInput) : (setInbox s xs).block = s.block := rfl
@[simp] theorem setInbox_crcReg (s : State) (xs : List HostInput) : (setInbox s xs).crcReg = s.crcReg := rfl
@[simp] theorem setInbox_crcOpen (s : State) (xs : List HostInput) : (setInbox s xs).crcOpen = s.crcOpen := rfl
@[simp] theorem setInbox_typeReg (s : State) (xs : List HostInput) : (setInbox s xs).typeReg = s.typeReg := rfl
@[simp] theorem setInbox_inbox (s : State) (xs : List HostInput) : (setInbox s xs).inbox = xs := rfl
@[simp] theorem setInbox_response (s : State) (xs : List HostInput) : (setInbox s xs).response = s.response := rfl

@[simp] theorem complete_block (s : State) (a : Answer) : (complete s a).block = a.1 := rfl
@[simp] theorem complete_crcReg (s : State) (a : Answer) : (complete s a).crcReg = a.1.crcReg := rfl
@[simp] theorem complete_crcOpen (s : State) (a : Answer) : (complete s a).crcOpen = a.1.crcOpen := rfl
@[simp] theorem complete_typeReg (s : State) (a : Answer) : (complete s a).typeReg = a.1.typeReg := rfl
@[simp] theorem complete_inbox (s : State) (a : Answer) : (complete s a).inbox = s.inbox := rfl
@[simp] theorem complete_response (s : State) (a : Answer) : (complete s a).response = some a.2 := rfl

@[simp] theorem reset_block : State.reset.block = Block.reset := rfl
@[simp] theorem reset_crcReg : State.reset.crcReg = 0xFFFFFFFF#32 := rfl
@[simp] theorem reset_crcOpen : State.reset.crcOpen = false := rfl
@[simp] theorem reset_typeReg : State.reset.typeReg = none := rfl
@[simp] theorem reset_inbox : State.reset.inbox = [] := rfl
@[simp] theorem reset_response : State.reset.response = none := rfl

@[simp] theorem block_reset_crcReg : Block.reset.crcReg = 0xFFFFFFFF#32 := rfl
@[simp] theorem block_reset_crcOpen : Block.reset.crcOpen = false := rfl
@[simp] theorem block_reset_typeReg : Block.reset.typeReg = none := rfl

@[simp] theorem typeLoaded_none (b : Block) (h : b.typeReg = none) : typeLoaded b = false := by
  simp [typeLoaded, h]

@[simp] theorem typeLoaded_some (b : Block) (w : Word) (h : b.typeReg = some w) : typeLoaded b = true := by
  simp [typeLoaded, h]

end Sys2Proof.Machine
end

