-- ==== Sys2Proof/Laws/Ops.lean ====
section
/-! SUPPORT. What each shared operation can answer, said once: the lemmas the proofs cite instead of unfolding it. -/

namespace Sys2Proof.Machine

@[simp] theorem respond_fst (v : Word) (b : Block) : (respond v b).1 = b := rfl

@[simp] theorem respond_snd (v : Word) (b : Block) : (respond v b).2 = ⟨0x00#8, v⟩ := rfl

/-- "It writes no state" (60 R200). -/
@[simp] theorem raise_fst (e : ErrorKind) (b : Block) : (raise e b).1 = b := rfl

@[simp] theorem raise_snd (e : ErrorKind) (b : Block) : (raise e b).2 = ⟨errorCode e, 0x00000000#32⟩ := rfl

theorem answer_next {s t : State} {a : Answer} (h : answer s a = .next t) : t = complete s a := by
  cases h; rfl

/-- The gate of CRC_BYTE and CRC_FINAL: the body with a call open, CrcNotOpen without. -/
theorem withOpenCall_cases (b : Block) (body : Answer) :
    (b.crcOpen = true ∧ withOpenCall b body = body) ∨
      (b.crcOpen = false ∧ withOpenCall b body = raise .crcNotOpen b) := by
  cases h : b.crcOpen <;> simp [withOpenCall, h]

/-- The gate of the TYPE readers: the body on TYPE_REG with a type loaded, NoType without. -/
theorem withType_cases (b : Block) (body : Word → Answer) :
    (∃ w, b.typeReg = some w ∧ withType b body = body w) ∨
      (b.typeReg = none ∧ withType b body = raise .noType b) := by
  cases h : b.typeReg <;> simp [withType, h]

theorem loadType_cases (arg : Word) (b : Block) :
    (allAlpha arg = true ∧ loadType arg b = respond 0x00000000#32 (setType b arg)) ∨
      (allAlpha arg = false ∧ loadType arg b = raise .invalidCharacter b) := by
  cases h : allAlpha arg <;> simp [loadType, h]

theorem readProperty_cases (p : Word → Bool) (b : Block) :
    (∃ w, b.typeReg = some w ∧ readProperty p b = respond (boolResult (p w)) b) ∨
      (b.typeReg = none ∧ readProperty p b = raise .noType b) :=
  withType_cases b _

theorem execWord_command {w : CmdWord} {i : Instr} (h : decode w = .command i) (s : State) :
    execWord w s = exec i s := by
  simp [execWord, h]

theorem execWord_illegal {w : CmdWord} {why : IllegalReason} (h : decode w = .illegal why) (s : State) :
    execWord w s = answer s (raise .illegalCommand s.block) := by
  simp [execWord, h]

theorem step_of_inbox_nil {s : State} (h : s.inbox = []) : step s = idle s := by
  simp [step, h]

theorem step_of_inbox_cons {s : State} {x : HostInput} {rest : List HostInput} (h : s.inbox = x :: rest) :
    step s = takeInput x (setInbox s rest) := by
  simp [step, h]

/-- Everything a step can be: idling, the reset transition, or one command word executed. -/
theorem step_cases (s : State) :
    (s.inbox = [] ∧ step s = .next s) ∨
      (∃ rest, s.inbox = .reset :: rest ∧ step s = .next (setInbox State.reset rest)) ∨
      (∃ w rest, s.inbox = .command w :: rest ∧ step s = execWord w (setInbox s rest)) := by
  cases h : s.inbox with
  | nil => exact .inl ⟨rfl, step_of_inbox_nil h⟩
  | cons x rest =>
    have hs := step_of_inbox_cons h
    cases x with
    | reset => exact .inr (.inl ⟨rest, rfl, hs⟩)
    | command w => exact .inr (.inr ⟨w, rest, rfl, hs⟩)

end Sys2Proof.Machine
end

