-- ==== Sys2Proof/Laws/PerInstr.lean ====
section
/-! SUPPORT. The per-instruction family EncodesLegal: the encoder sets no bit that R60 or R63 says must be zero. -/

namespace Sys2Proof.Laws.EncodesLegal

/-- The command word of the instruction meets every condition of R60, R63 and R65. -/
def Statement (i : Instr) : Prop := wordLegal (encode i) = true

/-- The conditions of R60, R63 and R65, read off the fields a command word was made from. -/
theorem wordLegal_commandWord (opc len : Byte) (arg : Word) :
    wordLegal (commandWord opc len arg) =
      (assignedOpcodes.contains opc && (opc == 0x11#8 || len == 0#8) &&
        (if opc == 0x10#8 || opc == 0x11#8 || opc == 0x13#8 then true
          else if opc == 0x02#8 then arg.extractLsb' 8 24 == 0#24 else arg == 0#32)) := by
  simp only [wordLegal, opcodeAssigned, lenAllowed, rsvAllowed, argAllowed, commandWord_opc,
    commandWord_len, commandWord_rsv, commandWord_arg, beq_self_eq_true, Bool.and_true]

/-- A zero-extended byte leaves ARG[31:8] zero (R63). -/
theorem extract_setWidth_byte (b : Byte) : (b.setWidth 32).extractLsb' 8 24 = 0#24 := by
  ext i; simp

theorem crcStart : Statement .crcStart := by
  simp [Statement, encode, wordLegal_commandWord, assignedOpcodes]

theorem crcByte (b : Byte) : Statement (.crcByte b) := by
  simp [Statement, encode, wordLegal_commandWord, assignedOpcodes, extract_setWidth_byte]

theorem crcFinal : Statement .crcFinal := by
  simp [Statement, encode, wordLegal_commandWord, assignedOpcodes]

theorem typeLoad (arg : Word) : Statement (.typeLoad arg) := by
  simp [Statement, encode, wordLegal_commandWord, assignedOpcodes]

theorem typeLoads (len : Byte) (arg : Word) : Statement (.typeLoads len arg) := by
  simp [Statement, encode, wordLegal_commandWord, assignedOpcodes]

theorem typeRead : Statement .typeRead := by
  simp [Statement, encode, wordLegal_commandWord, assignedOpcodes]

theorem typeEq (arg : Word) : Statement (.typeEq arg) := by
  simp [Statement, encode, wordLegal_commandWord, assignedOpcodes]

theorem typeIsvalid : Statement .typeIsvalid := by
  simp [Statement, encode, wordLegal_commandWord, assignedOpcodes]

theorem typeIscrit : Statement .typeIscrit := by
  simp [Statement, encode, wordLegal_commandWord, assignedOpcodes]

theorem typeIspub : Statement .typeIspub := by
  simp [Statement, encode, wordLegal_commandWord, assignedOpcodes]

theorem typeIsrsv : Statement .typeIsrsv := by
  simp [Statement, encode, wordLegal_commandWord, assignedOpcodes]

theorem typeIssafe : Statement .typeIssafe := by
  simp [Statement, encode, wordLegal_commandWord, assignedOpcodes]

end Sys2Proof.Laws.EncodesLegal
end

