-- ==== Sys2Proof/Tests/Slice0.lean ====
section
/-! SUPPORT. Tests of the model and witnesses of the statements' hypotheses. Expected values are from
95_test_vectors.md, or from the rule named beside them. -/

namespace Sys2Proof.Tests

open Sys2Proof Sys2Proof.Machine

/-- A state with the given registers, an empty inbox and no response. -/
def st (c : Word) (o : Bool) (ty : Option Word) : State :=
  { State.reset with crcReg := c, crcOpen := o, typeReg := ty }

/-- The state with the given inputs waiting. -/
def waiting (s : State) (xs : List HostInput) : State := { s with inbox := xs }

/-- The next state, so that outcomes can be compared. -/
def after : Result → Option State
  | .next t => some t
  | .fault _ => none
  | .refused _ => none

/-- What a step leaves, in the columns of the spec's program tables: STATUS, RESULT, CRC_REG, CRC_OPEN, TYPE_REG. -/
def columns : Result → Option (Byte × Word × Word × Bool × Option Word)
  | .next t => t.response.map fun r => (r.status, r.result, t.crcReg, t.crcOpen, t.typeReg)
  | .fault _ => none
  | .refused _ => none

/-- 'IEND', 'ruSt', 'Rust' as type words (section 3.1). -/
def iend : Word := 0x49454E44#32
def rust : Word := 0x72755374#32
def capRust : Word := 0x52757374#32

/-! ### Well-formed words: each check refuses an ill-formed word (R60, R63, R68; section 4) -/

theorem test_opcodeAssigned_refuses : opcodeAssigned 0x0400000000000000#64 = false := by decide
theorem test_lenAllowed_refuses : lenAllowed 0x1001000049454E44#64 = false := by decide
theorem test_rsvAllowed_refuses : rsvAllowed 0x1104800049454E44#64 = false := by decide
theorem test_argAllowed_refuses_byte : argAllowed 0x0200000000000100#64 = false := by decide
theorem test_argAllowed_refuses_no_operand : argAllowed 0x2100000000000001#64 = false := by decide
theorem test_asmForm_refuses : (Instr.typeLoads 3#8 0x31323334#32).asmForm = false := by decide
theorem test_wordLegal_accepts : wordLegal 0x11FF0000DEADBEEF#64 = true := by decide

/-! ### Decoding: one word of each constructor (R65, R75; section 4), and the refused words of section 4 -/

theorem test_decode_crcStart : decode 0x0100000000000000#64 = .command .crcStart := by decide
theorem test_decode_crcByte : decode 0x02000000000000FF#64 = .command (.crcByte 0xFF#8) := by decide
theorem test_decode_crcFinal : decode 0x0300000000000000#64 = .command .crcFinal := by decide
theorem test_decode_typeLoad : decode 0x10000000DEADBEEF#64 = .command (.typeLoad 0xDEADBEEF#32) := by decide
theorem test_decode_typeLoads :
    decode 0x11FF0000DEADBEEF#64 = .command (.typeLoads 0xFF#8 0xDEADBEEF#32) := by decide
theorem test_decode_typeRead : decode 0x1200000000000000#64 = .command .typeRead := by decide
theorem test_decode_typeEq : decode 0x1300000049454E44#64 = .command (.typeEq iend) := by decide
theorem test_decode_typeIsvalid : decode 0x2000000000000000#64 = .command .typeIsvalid := by decide
theorem test_decode_typeIscrit : decode 0x2100000000000000#64 = .command .typeIscrit := by decide
theorem test_decode_typeIspub : decode 0x2200000000000000#64 = .command .typeIspub := by decide
theorem test_decode_typeIsrsv : decode 0x2300000000000000#64 = .command .typeIsrsv := by decide
theorem test_decode_typeIssafe : decode 0x2400000000000000#64 = .command .typeIssafe := by decide

theorem test_decode_unassigned :
    [0x0000000000000000#64, 0x0400000000000000#64, 0x2500000000000000#64, 0xFFFFFFFFFFFFFFFF#64].map decode =
      List.replicate 4 (.illegal .unassignedOpcode) := by decide

theorem test_decode_mustBeZero :
    [0x0100000000000001#64, 0x0101000000000000#64, 0x0200000000000100#64, 0x0200000100000000#64,
      0x1001000049454E44#64, 0x1104800049454E44#64, 0x2100000000000001#64].map decode =
      List.replicate 7 (.illegal .mustBeZeroBitSet) := by decide

theorem test_encode_typeLoads : encode (.typeLoads 4#8 rust) = 0x1104000072755374#64 := by decide
theorem test_encode_crcByte : encode (.crcByte 0x49#8) = 0x0200000000000049#64 := by decide

theorem test_decodeTableWord : decodeTableWord 64 0x1104000072755374 = some (.typeLoads 4#8 rust) := by decide
theorem test_decodeTableWord_illegal : decodeTableWord 64 0 = none := by decide

/-! ### Commands (section 6, programs P1 to P5: each row is one step from the row before it) -/

theorem test_crcStart_restarts : columns (step ((st 0x7323E97C#32 true none).withFetchWord 64 0x0100000000000000)) =
    some (0x00#8, 0#32, 0xFFFFFFFF#32, true, none) := by decide
theorem test_crcByte_first : columns (step ((st 0xFFFFFFFF#32 true (some iend)).withFetchWord 64 0x0200000000000049)) =
    some (0x00#8, 0#32, 0x22FDE946#32, true, some iend) := by decide +kernel
theorem test_crcByte_closed : columns (step (State.reset.withFetchWord 64 0x0200000000000078)) =
    some (0x04#8, 0#32, 0xFFFFFFFF#32, false, none) := by decide
theorem test_crcFinal_iend : columns (step ((st 0x51BD9F7D#32 true (some iend)).withFetchWord 64 0x0300000000000000)) =
    some (0x00#8, 0xAE426082#32, 0xFFFFFFFF#32, false, some iend) := by decide
theorem test_crcFinal_twice : columns (step (State.reset.withFetchWord 64 0x0300000000000000)) =
    some (0x04#8, 0#32, 0xFFFFFFFF#32, false, none) := by decide
theorem test_typeLoad_reserved_bit : columns (step (State.reset.withFetchWord 64 0x1000000052757374)) =
    some (0x00#8, 0#32, 0xFFFFFFFF#32, false, some capRust) := by decide
theorem test_typeLoad_failure_keeps : columns (step ((st 0xFFFFFFFF#32 false (some capRust)).withFetchWord 64 0x1000000031323334)) =
    some (0x01#8, 0#32, 0xFFFFFFFF#32, false, some capRust) := by decide
theorem test_typeLoads_replaces : columns (step ((st 0xFFFFFFFF#32 false (some iend)).withFetchWord 64 0x1104000072755374)) =
    some (0x00#8, 0#32, 0xFFFFFFFF#32, false, some rust) := by decide
theorem test_typeLoads_length_first : columns (step (State.reset.withFetchWord 64 0x1103000031323334)) =
    some (0x02#8, 0#32, 0xFFFFFFFF#32, false, none) := by decide
theorem test_typeRead : columns (step ((st 0xFFFFFFFF#32 false (some capRust)).withFetchWord 64 0x1200000000000000)) =
    some (0x00#8, capRust, 0xFFFFFFFF#32, false, some capRust) := by decide
theorem test_typeEq_case : columns (step ((st 0xFFFFFFFF#32 false (some rust)).withFetchWord 64 0x1300000052755374)) =
    some (0x00#8, 0#32, 0xFFFFFFFF#32, false, some rust) := by decide
theorem test_illegal_inside_call : columns (step ((st 0x174841BC#32 true (some 0x49484452#32)).withFetchWord 64 0xFF00000000000000)) =
    some (0x05#8, 0#32, 0x174841BC#32, true, some 0x49484452#32) := by decide
theorem test_reset_inside_call : after (step (waiting (st 0x22FDE946#32 true (some iend)) [.reset])) =
    some State.reset := by decide

/-- RESULT of the five property readers and TYPE_READ on a loaded code, in the column order of section 3.1. -/
def properties (w : Word) : List (Option Word) :=
  [Instr.typeIsvalid, .typeIscrit, .typeIspub, .typeIsrsv, .typeIssafe, .typeRead].map fun i =>
    (columns (exec i (st 0xFFFFFFFF#32 false (some w)))).map fun c => c.2.1

theorem test_properties_IHDR : properties 0x49484452#32 = [1#32, 1#32, 1#32, 1#32, 0#32, 0x49484452#32].map some := by decide
theorem test_properties_tEXt : properties 0x74455874#32 = [1#32, 0#32, 1#32, 1#32, 1#32, 0x74455874#32].map some := by decide
theorem test_properties_ruSt : properties rust = [1#32, 0#32, 0#32, 1#32, 1#32, rust].map some := by decide
theorem test_properties_Rust : properties capRust = [0#32, 1#32, 0#32, 0#32, 1#32, capRust].map some := by decide
theorem test_properties_AZaz : properties 0x415A617A#32 = [0#32, 1#32, 1#32, 0#32, 1#32, 0x415A617A#32].map some := by decide

theorem test_readers_noType :
    ([Instr.typeRead, .typeEq iend, .typeIsvalid, .typeIscrit, .typeIspub, .typeIsrsv, .typeIssafe].map fun i =>
      after (exec i State.reset)) =
      List.replicate 7 (some { State.reset with response := some ⟨0x03#8, 0#32⟩ }) := by decide

theorem test_load_rejects :
    ([0x40414141#32, 0x5B414141#32, 0x60414141#32, 0x7B414141#32, 0xC1414141#32, 0x41414100#32, 0x52753174#32,
      0x616161FA#32].map fun w => after (exec (.typeLoad w) State.reset)) =
      List.replicate 8 (some { State.reset with response := some ⟨0x01#8, 0#32⟩ }) := by decide

/-! ### The checksum (section 2) -/

theorem test_crc_empty : crc32 [] = 0x00000000#32 := by decide
theorem test_crc_a : crc32 (ascii "a") = 0xE8B7BE43#32 := by decide +kernel
theorem test_crc_zeros : crc32 [0#8, 0#8, 0#8, 0#8] = 0x2144DF1C#32 := by decide +kernel
theorem test_crc_hidden_message : crc32 (ascii "ruSthidden message") = 0xDA7F3A11#32 := by decide +kernel
theorem test_crcStep_corner : crcStep 0xDEBB20E3#32 0x00#8 = 0x39DD08E2#32 := by decide +kernel
theorem test_crcTable_row : [0xC8#8, 0xC9#8, 0xCA#8, 0xCB#8].map crcTable =
    [0x95BF4A82#32, 0xE2B87A14#32, 0x7BB12BAE#32, 0x0CB61B38#32] := by decide +kernel
theorem test_serializeChunk : serializeChunk iend [] =
    some [0#8, 0#8, 0#8, 0#8, 0x49#8, 0x45#8, 0x4E#8, 0x44#8, 0xAE#8, 0x42#8, 0x60#8, 0x82#8] := by decide +kernel

/-! ### Assembly (R72 to R75; sections 3.2 and 6) -/

theorem test_asm_literals : assembleText (ascii "crc.byte 'a'\ncrc.byte 0x49 ; 'I'\ntype.load 'IEND'\ntype.load 0x31323334") =
    some [0x0200000000000061#64, 0x0200000000000049#64, 0x1000000049454E44#64, 0x1000000031323334#64] := by decide +kernel
theorem test_asm_strings : assembleText (ascii "type.loads \"ruSt\"\ntype.loads \"abc\"\ntype.loads \"\"\n; nothing\n.word 0xFF00000000000000") =
    some [0x1104000072755374#64, 0x1103000000000000#64, 0x1100000000000000#64, 0xFF00000000000000#64] := by decide +kernel
theorem test_asm_escapes : assembleText (ascii "crc.bytes \"\\x00;\\\"\\\\\"\ncrc.bytes 1, '\\xFF' , ','") =
    some [0x0200000000000000#64, 0x020000000000003B#64, 0x0200000000000022#64, 0x020000000000005C#64,
      0x0200000000000001#64, 0x02000000000000FF#64, 0x020000000000002C#64] := by decide +kernel
theorem test_asm_pseudo : assembleText (ascii "crc.word 'IEND'\ncrc32 \"a\"") =
    some [0x0200000000000049#64, 0x0200000000000045#64, 0x020000000000004E#64, 0x0200000000000044#64,
      0x0100000000000000#64, 0x0200000000000061#64, 0x0300000000000000#64] := by decide +kernel
theorem test_asm_apostrophes :
    assembleText (ascii "crc.byte ''' ; note\ncrc.bytes ''', 1, ';', '\\x2C'\ntype.eq 'A;,C' ; note\ntype.eq 'AB'C'") =
    some [0x0200000000000027#64, 0x0200000000000027#64, 0x0200000000000001#64, 0x020000000000003B#64,
      0x020000000000002C#64, 0x13000000413B2C43#64, 0x1300000041422743#64] := by decide +kernel
theorem test_asm_rejects : [ascii "crc.byte 256", ascii "type.load 'ABC'", ascii "CRC.START", ascii "crc.start 1",
    ascii "type.loads \"abc"].map assembleText = List.replicate 5 none := by decide +kernel
theorem test_lenOperand_saturates : [4, 255, 256, 260, 300].map lenOperand = [4#8, 255#8, 255#8, 255#8, 255#8] := by decide

/-! ### Witnesses: for each statement with hypotheses, a state and operands that meet them -/

/-- An inner state of a call, with a type loaded. -/
def openState : State := st 0x22FDE946#32 true (some iend)

theorem openState_inv : Inv openState :=
  ⟨fun w h => by cases h; decide, fun h => (Bool.noConfusion (h : true = false)), fun r h => nomatch h⟩

theorem test_witness_StepKeepsInvariant :
    Inv (waiting openState [.command (encode .crcFinal)]) ∧
      (after (step (waiting openState [.command (encode .crcFinal)]))).isSome = true :=
  ⟨openState_inv, by decide⟩

theorem test_witness_ResetTransition : (waiting openState [.reset]).inbox = .reset :: [] := by decide

/-- Inputs after a reset that start no call and load no type: a rejected load, one of a wrong length, an illegal word. -/
def afterReset : List HostInput :=
  [.command (encode (.typeLoad 0x31323334#32)), .command (encode (.typeLoads 3#8 iend)), .command 0#64, .reset]

theorem test_witness_ResetEndsCall :
    (waiting openState (.reset :: (afterReset ++ .command (encode (.crcByte 0xFF#8)) :: []))).inbox =
      .reset :: (afterReset ++ .command (encode (.crcByte 0xFF#8)) :: []) ∧
    (Instr.crcByte 0xFF#8).needsOpenCall = true ∧ Instr.crcFinal.needsOpenCall = true ∧
    Instr.typeIssafe.isTypeReader = true ∧ (Instr.typeEq 0#32).isTypeReader = true ∧
    (∀ y ∈ afterReset, startsCall y = false) ∧ (∀ y ∈ afterReset, loadsType y = false) ∧
    startsCall (.command (encode .crcStart)) = true ∧ loadsType (.command (encode (.typeLoad iend))) = true := by decide

theorem test_witness_IdleKeepsState : openState.inbox = [] := by decide

theorem test_witness_StepRunsDecodedCommand :
    (waiting openState [.command 0x1200000000000000#64]).inbox = .command 0x1200000000000000#64 :: [] ∧
    decode 0x1200000000000000#64 = .command .typeRead ∧
    decodeTableWord 64 0x2400000000000000 = some .typeIssafe := by decide

theorem test_witness_HistoryIsLeftFold :
    (waiting openState [.command 0#64, .command (encode .crcFinal), .reset]).inbox =
      [0#64, encode .crcFinal].map HostInput.command ++ [.reset] := by decide

theorem test_witness_SameRegistersSameOutcome :
    SameRegisters openState (waiting openState [.reset]) ∧ openState ≠ waiting openState [.reset] :=
  ⟨rfl, by decide⟩

theorem test_witness_EveryStepCompletes :
    (waiting openState [.command 0#64]).inbox = .command 0#64 :: [] ∧
    (after (step (waiting openState [.command 0#64]))).map (fun t => t.response) =
      some (some ⟨0x05#8, 0#32⟩) := by decide

theorem test_witness_EncodeOfDecode : decode 0x1103000031323334#64 = .command (.typeLoads 3#8 0x31323334#32) := by decide

theorem test_witness_OpcodeTableRows :
    (∃ r ∈ opcodeRows, 0x02000000000000FF#64 &&& r.mask = r.pattern) ∧
    (∀ r ∈ opcodeRows, ¬ 0x0000000000000000#64 &&& r.mask = r.pattern) := by
  simp [opcodeRows]

theorem test_witness_IllegalWords :
    decode 0xFF00000000000000#64 = .illegal .unassignedOpcode ∧
    decode 0x2000000000000001#64 = .illegal .mustBeZeroBitSet := by decide

theorem test_witness_CrcByteRule :
    openState.crcOpen = true ∧ State.reset.crcOpen = false ∧
    opcField 0x0200000000000100#64 = 0x02#8 ∧ (0x0200000000000100#64).extractLsb' 8 24 ≠ 0#24 := by decide

theorem test_witness_CrcFinalRule :
    openState.crcOpen = true ∧ State.reset.crcOpen = false ∧
    (after (exec .crcFinal openState)).isSome = true ∧ (after (exec .crcFinal State.reset)).isSome = true := by decide

theorem test_witness_CrcOpenFlag :
    (after (applyReset openState)).isSome = true ∧ (Instr.crcByte 0#8).needsOpenCall = true ∧
    State.reset.crcOpen = false ∧ (Instr.typeLoads 4#8 rust).isCrc = false ∧
    (after (exec (.typeLoads 4#8 rust) openState)).isSome = true := by decide

/-- Program P4's call: a byte, a TYPE command, an illegal word. -/
def callBody : List HostInput :=
  [.command (encode (.crcByte 0x61#8)), .command (encode (.typeLoads 4#8 0x49484452#32)), .command 0xFF00000000000000#64]

theorem test_witness_CallComputesCrc32 :
    (∀ x ∈ callBody, insideCall x = true) ∧
    (waiting openState (.command (encode .crcStart) :: (callBody ++ .command (encode .crcFinal) :: [.reset]))).inbox =
      .command (encode .crcStart) :: (callBody ++ .command (encode .crcFinal) :: [.reset]) ∧
    fedBytes callBody = [0x61#8] ∧
    insideCall .reset = false ∧ insideCall (.command (encode .crcStart)) = false ∧
    insideCall (.command (encode .crcFinal)) = false := by decide

theorem test_witness_CallsAreIndependent :
    (∀ x ∈ callBody, insideCall x = true) ∧
    (∀ x ∈ [HostInput.command (encode (.crcByte 0x61#8))], insideCall x = true) ∧
    fedBytes callBody = fedBytes [HostInput.command (encode (.crcByte 0x61#8))] := by decide

theorem test_witness_Crc32IsAffine : (ascii "ruSt").length = (ascii "IEND").length := by decide

theorem test_witness_OneByteChangeDetected :
    (0x03#8 : Byte) ≠ 0x00#8 ∧ crc32 (ascii "ruSthidden messagf") = 0x43766BAB#32 := by decide +kernel

theorem test_witness_Crc32IsPolynomialRemainder : (0 : Nat) < 32 ∧ 31 < 32 := by decide

theorem test_witness_AlphabeticBytes : (0xC1#8).getLsbD 7 = true := by decide

theorem test_witness_TypeWordPacking :
    alpha 0x41#8 = true ∧ alpha 0x5A#8 = true ∧ alpha 0x61#8 = true ∧ alpha 0x7A#8 = true := by decide

theorem test_witness_TypeLoadRule :
    (∀ i, alpha (typeByte 0x415A617A#32 i) = true) ∧ (∃ i, alpha (typeByte 0x41414100#32 i) = false) ∧
    typeByte 0x40414141#32 0 ∈ [0x40#8, 0x5B#8, 0x60#8, 0x7B#8] ∧ 0x80#8 ≤ typeByte 0x616161FA#32 3 ∧
    (after (exec (.typeLoad iend) State.reset)).isSome = true := by decide

theorem test_witness_TypeLoadsRule :
    (3#8 : Byte) ≠ 4#8 ∧ (5#8 : Byte) ≠ 4#8 ∧ (0#8 : Byte) ≠ 4#8 ∧ (0xFF#8 : Byte) ≠ 4#8 ∧
    (∀ i, alpha (typeByte rust i) = true) ∧ (∃ i, alpha (typeByte 0x31323334#32 i) = false) := by decide

theorem test_witness_TypeReadRule :
    openState.typeReg = some iend ∧ State.reset.typeReg = none ∧ TypeInv openState ∧
    columns (exec .typeRead openState) = some (0x00#8, iend, 0x22FDE946#32, true, some iend) :=
  ⟨by decide, by decide, openState_inv.1, by decide⟩

theorem test_witness_TypeEqRule :
    TypeInv openState ∧ openState.typeReg = some iend ∧ (∃ i, alpha (typeByte 0x00000000#32 i) = false) ∧
    State.reset.typeReg = none :=
  ⟨openState_inv.1, by decide, by decide, by decide⟩

/-- For TypeIsvalidRule, TypeIscritRule, TypeIspubRule, TypeIsrsvRule and TypeIssafeRule: one code has their
four bits clear, the other has them set. -/
theorem test_witness_property_rules :
    (st 0xFFFFFFFF#32 false (some 0x41414141#32)).typeReg = some 0x41414141#32 ∧
    (st 0xFFFFFFFF#32 false (some 0x7A7A7A7A#32)).typeReg = some 0x7A7A7A7A#32 ∧
    State.reset.typeReg = none ∧ TypeInv openState ∧ TypeInv State.reset :=
  ⟨by decide, by decide, by decide, openState_inv.1, fun _ h => nomatch h⟩

theorem test_witness_TypeRegisterWrites :
    (after (step (waiting openState [.reset]))).map (fun t => t.typeReg.isSome) = some false ∧
    openState.typeReg.isSome = true := by decide

theorem test_witness_LetterCaseProperties :
    alpha 0x41#8 = true ∧ alpha 0x7A#8 = true ∧ (∀ i, alpha (typeByte 0x415A617A#32 i) = true) := by decide

theorem test_witness_PropertyCombinations :
    (0x41414141#32 : Word).getLsbD 29 = iend.getLsbD 29 ∧ (0x41414141#32 : Word).getLsbD 21 = iend.getLsbD 21 ∧
    (0x41414141#32 : Word).getLsbD 13 = iend.getLsbD 13 ∧ (0x41414141#32 : Word).getLsbD 5 = iend.getLsbD 5 ∧
    allAlpha 0x41414141#32 = true ∧ allAlpha iend = true := by decide

theorem test_witness_ErrorsWriteNothing :
    columns (execWord 0x0300000000000001#64 openState) = some (0x05#8, 0#32, 0x22FDE946#32, true, some iend) := by decide

theorem test_witness_UnitsAreSeparate :
    Instr.typeRead.isCrc = false ∧ Instr.crcStart.isCrc = true := by decide

theorem test_witness_ReadersAreIdempotent :
    (Instr.typeEq iend).isTypeReader = true ∧ openState.crcOpen = true := by decide

/-- A host that starts before it feeds, and loads before it reads (R233). -/
def dutiful : List HostInput :=
  [.reset, .command (encode .crcStart), .command (encode (.typeLoad iend)), .command (encode (.crcByte 0#8)),
    .command (encode .typeIscrit), .command 0#64, .command (encode .crcFinal)]

theorem test_witness_DutifulHostNeverTurnedAway :
    (waiting openState (dutiful ++ [.command (encode .crcFinal)])).inbox = dutiful ++ [.command (encode .crcFinal)] ∧
    doesDuties openState.crcOpen openState.typeReg.isSome dutiful = true ∧ 0 < 7 ∧ 7 ≤ dutiful.length ∧
    doesDuties false false [.command (encode .crcFinal)] = false ∧
    doesDuties false false [.command (encode (.typeLoad 0x31323334#32)), .command (encode .typeRead)] = false := by decide

theorem test_witness_StringLoadOutcome : (ascii "abc").length ≠ 4 ∧ (ascii "abcde").length ≠ 4 := by decide

theorem test_witness_StringOperandText :
    ∀ c ∈ ascii "a;b,'c'", c ≠ chDoubleQuote ∧ c ≠ chBackslash := by decide

/-- The second clause at its boundary: an apostrophe as the second character, before a letter and before a comma. -/
theorem test_witness_QuotedOperandText :
    ¬ (chQuote = chQuote ∧ endsOperand [0x42#8] = true) ∧ ¬ (chSemicolon = chQuote ∧ endsOperand [chComma] = true) ∧
    (chQuote = chQuote ∧ endsOperand [chComma] = true) := by decide

theorem test_witness_ChunkLayout : (ascii "hidden message").length < 2 ^ 32 := by decide

theorem test_witness_CorruptedChunkDetected : (0xFF#8 : Byte) ≠ 0x00#8 := by decide

end Sys2Proof.Tests
end

section
/-! SUPPORT. What a command can do, one rule for each unit: the CRC commands' next states with a call open and with
none, and that a TYPE command is a function of TYPE_REG and its operands which writes nothing else of the block. -/

namespace Sys2Proof.Machine

/-- The answers a TYPE command may give: TYPE_REG and the response come from the old TYPE_REG alone, and the CRC
registers are neither read nor written (R21 to R24, R148). -/
def DependsOnTypeOnly (body : Block → Answer) : Prop :=
  ∃ f : Option Word → Option Word × Response,
    ∀ b, body b = ({ b with typeReg := (f b.typeReg).1 }, (f b.typeReg).2)

theorem raise_dependsOnTypeOnly (e : ErrorKind) : DependsOnTypeOnly (raise e) :=
  ⟨fun ty => (ty, ⟨errorCode e, 0x00000000#32⟩), fun _ => rfl⟩

theorem loadType_dependsOnTypeOnly (arg : Word) : DependsOnTypeOnly (loadType arg) := by
  cases h : allAlpha arg with
  | true => exact ⟨fun _ => (some arg, ⟨statusOk, 0x00000000#32⟩), fun b => by simp [loadType, h, setType, respond]⟩
  | false =>
    have hraise : loadType arg = raise .invalidCharacter := by funext b; simp [loadType, h]
    exact hraise ▸ raise_dependsOnTypeOnly .invalidCharacter

/-- The shape of all seven TYPE readers: NoType, or a result computed from TYPE_REG. -/
theorem withType_respond_dependsOnTypeOnly (g : Word → Word) :
    DependsOnTypeOnly fun b => withType b fun w => respond (g w) b := by
  refine ⟨fun ty => (ty, ty.elim ⟨errorCode .noType, 0x00000000#32⟩ fun w => ⟨statusOk, g w⟩), fun ⟨_, _, ty⟩ => ?_⟩
  cases ty with
  | none => rfl
  | some w => rfl

theorem readProperty_dependsOnTypeOnly (p : Word → Bool) : DependsOnTypeOnly (readProperty p) :=
  withType_respond_dependsOnTypeOnly fun w => boolResult (p w)

theorem typeLoads_dependsOnTypeOnly (len : Byte) (arg : Word) :
    DependsOnTypeOnly fun b => if len ≠ 4#8 then raise .invalidLength b else loadType arg b := by
  by_cases h : len = 4#8
  · simpa [h] using loadType_dependsOnTypeOnly arg
  · simpa [h] using raise_dependsOnTypeOnly .invalidLength

theorem exec_type_answer {i : Instr} (hi : i.isCrc = false) :
    ∃ body, DependsOnTypeOnly body ∧ ∀ s, exec i s = answer s (body s.block) := by
  cases i with
  | crcStart | crcByte _ | crcFinal => cases hi
  | typeLoad arg => exact ⟨_, loadType_dependsOnTypeOnly arg, fun _ => rfl⟩
  | typeLoads len arg => exact ⟨_, typeLoads_dependsOnTypeOnly len arg, fun _ => rfl⟩
  | typeRead => exact ⟨_, withType_respond_dependsOnTypeOnly id, fun _ => rfl⟩
  | typeEq arg => exact ⟨_, withType_respond_dependsOnTypeOnly fun w => boolResult (w == arg), fun _ => rfl⟩
  | typeIsvalid => exact ⟨_, readProperty_dependsOnTypeOnly valid, fun _ => rfl⟩
  | typeIscrit => exact ⟨_, readProperty_dependsOnTypeOnly crit, fun _ => rfl⟩
  | typeIspub => exact ⟨_, readProperty_dependsOnTypeOnly pub, fun _ => rfl⟩
  | typeIsrsv => exact ⟨_, readProperty_dependsOnTypeOnly rsvok, fun _ => rfl⟩
  | typeIssafe => exact ⟨_, readProperty_dependsOnTypeOnly safe, fun _ => rfl⟩

/-- The inversion of every TYPE command: its next state differs in TYPE_REG and the response alone, and both
come from TYPE_REG. -/
theorem exec_type_next {i : Instr} (hi : i.isCrc = false) :
    ∃ f : Option Word → Option Word × Response, ∀ s : State,
      exec i s = .next { s with typeReg := (f s.typeReg).1, response := some (f s.typeReg).2 } := by
  obtain ⟨body, ⟨f, hf⟩, hexec⟩ := exec_type_answer hi
  exact ⟨f, fun s => by rw [hexec, hf]; rfl⟩

/-- R148: a TYPE command does not write CRC_OPEN. -/
theorem exec_type_crcOpen {i : Instr} (hi : i.isCrc = false) {s t : State} (h : exec i s = .next t) :
    t.crcOpen = s.crcOpen := by
  obtain ⟨f, hf⟩ := exec_type_next hi
  cases (hf s).symm.trans h
  rfl

/-- R148: a TYPE command does not read CRC_OPEN. -/
theorem exec_type_withCrcOpen {i : Instr} (hi : i.isCrc = false) {s t : State} (h : exec i s = .next t) (v : Bool) :
    exec i { s with crcOpen := v } = .next { t with crcOpen := v } := by
  obtain ⟨f, hf⟩ := exec_type_next hi
  cases (hf s).symm.trans h
  exact hf _

theorem withOpenCall_of_open {b : Block} (h : b.crcOpen = true) (body : Answer) : withOpenCall b body = body := by
  simp [withOpenCall, h]

theorem withOpenCall_of_closed {b : Block} (h : b.crcOpen = false) (body : Answer) :
    withOpenCall b body = raise .crcNotOpen b := by
  simp [withOpenCall, h]

/-- R145, from every state. -/
theorem exec_crcStart (s : State) : exec .crcStart s = .next { s with
    crcReg := 0xFFFFFFFF#32, crcOpen := true, response := some ⟨0x00#8, 0x00000000#32⟩ } := rfl

/-- R146 with a call open. -/
theorem exec_crcByte_of_open {s : State} (h : s.crcOpen = true) (b : Byte) : exec (.crcByte b) s = .next { s with
    crcReg := crcStep s.crcReg b, response := some ⟨0x00#8, 0x00000000#32⟩ } := by
  rw [exec, execCrcByte, withOpenCall_of_open h]
  rfl

/-- R147 with a call open. -/
theorem exec_crcFinal_of_open {s : State} (h : s.crcOpen = true) : exec .crcFinal s = .next { s with
    crcReg := 0xFFFFFFFF#32, crcOpen := false, response := some ⟨0x00#8, s.crcReg ^^^ 0xFFFFFFFF#32⟩ } := by
  rw [exec, execCrcFinal, withOpenCall_of_open h]
  rfl

/-- R206: CRC_BYTE and CRC_FINAL with no call open. -/
theorem exec_of_closed {i : Instr} (hi : i.needsOpenCall = true) {s : State} (h : s.crcOpen = false) :
    exec i s = .next { s with response := some ⟨0x04#8, 0x00000000#32⟩ } := by
  have hgate (body : Answer) : answer s (withOpenCall s.block body) =
      .next { s with response := some ⟨0x04#8, 0x00000000#32⟩ } := by
    rw [withOpenCall_of_closed h]
    rfl
  cases i with
  | crcByte b => exact hgate _
  | crcFinal => exact hgate _
  | _ => cases hi

/-- R22: CRC_BYTE leaves CRC_OPEN as it is, whether it is accepted or not. -/
theorem exec_crcByte_crcOpen {b : Byte} {s t : State} (h : exec (.crcByte b) s = .next t) :
    t.crcOpen = s.crcOpen := by
  cases hs : s.crcOpen with
  | true =>
    cases (exec_crcByte_of_open hs b).symm.trans h
    exact hs
  | false =>
    cases (exec_of_closed rfl hs).symm.trans h
    exact hs

/-- R22: after CRC_FINAL no call is open, whether one was or not. -/
theorem exec_crcFinal_crcOpen {s t : State} (h : exec .crcFinal s = .next t) : t.crcOpen = false := by
  cases hs : s.crcOpen with
  | true =>
    cases (exec_crcFinal_of_open hs).symm.trans h
    rfl
  | false =>
    cases (exec_of_closed rfl hs).symm.trans h
    exact hs

/-- Settles O18: the CRC commands by their rules with a call open and with none, the TYPE commands because they
depend on TYPE_REG alone. -/
theorem crcOpenFlag : Obligations.CrcOpenFlag := by
  refine ⟨reset_crcOpen, ?afterReset, ?afterCommand, fun i s hi hs => exec_of_closed hi hs,
    fun i s t v hi h => exec_type_withCrcOpen hi h v⟩
  case afterReset =>
    intro s t h
    cases h
    rfl
  case afterCommand =>
    intro i s t h
    cases i with
    | crcStart =>
      cases (exec_crcStart s).symm.trans h
      rfl
    | crcByte b => exact exec_crcByte_crcOpen h
    | crcFinal => exact exec_crcFinal_crcOpen h
    | _ => exact exec_type_crcOpen rfl h

end Sys2Proof.Machine
end

section
/-! SUPPORT. A history of commands (20 R49): every command word is answered from the block alone, so the run over
an inbox and the fold over the words issued meet in one state. -/

namespace Sys2Proof.Machine

/-- Every command completes with an answer computed from the block alone (R9, R20). -/
theorem exec_answer (i : Instr) : ∃ body : Block → Answer, ∀ s, exec i s = answer s (body s.block) := by
  cases hi : i.isCrc with
  | false =>
    obtain ⟨body, -, hbody⟩ := exec_type_answer hi
    exact ⟨body, hbody⟩
  | true =>
    cases i with
    | crcStart =>
      exact ⟨fun b => respond 0x00000000#32 (setCrcOpen (setCrcReg b crcInit) true), fun _ => rfl⟩
    | crcByte v =>
      exact ⟨fun b => withOpenCall b (respond 0x00000000#32 (setCrcReg b (crcStep b.crcReg v))), fun _ => rfl⟩
    | crcFinal =>
      exact ⟨fun b => withOpenCall b (respond (b.crcReg ^^^ crcXorOut) (setCrcOpen (setCrcReg b crcInit) false)),
        fun _ => rfl⟩
    | _ => cases hi

/-- Every word, legal or not, completes with an answer computed from the block alone (R9, R204). -/
theorem execWord_answer (w : CmdWord) :
    ∃ body : Block → Answer, ∀ s, execWord w s = answer s (body s.block) := by
  cases h : decode w with
  | command i =>
    obtain ⟨body, hbody⟩ := exec_answer i
    exact ⟨body, fun s => (execWord_command h s).trans (hbody s)⟩
  | illegal why => exact ⟨raise .illegalCommand, execWord_illegal h⟩

/-- What a word does is the same whatever inputs wait behind it, and it leaves them as they are. -/
theorem execWord_setInbox_next (w : CmdWord) (s : State) :
    ∃ t, ∀ xs, execWord w (setInbox s xs) = .next (setInbox t xs) := by
  obtain ⟨body, hbody⟩ := execWord_answer w
  exact ⟨complete s (body s.block), fun xs => hbody (setInbox s xs)⟩

theorem foldWords_cons_next {w : CmdWord} {s t : State} (h : execWord w s = .next t) (ws : List CmdWord) :
    foldWords (w :: ws) s = foldWords ws t := by
  simp [foldWords, h]

theorem foldWords_next (ws : List CmdWord) (s : State) : ∃ t, foldWords ws s = .next t := by
  induction ws generalizing s with
  | nil => exact ⟨s, rfl⟩
  | cons w ws ih =>
    obtain ⟨body, hbody⟩ := execWord_answer w
    obtain ⟨t, ht⟩ := ih (complete s (body s.block))
    exact ⟨t, (foldWords_cons_next (hbody s) ws).trans ht⟩

/-- The run takes the words off the inbox, the fold has them beside it: the states they pass through differ in the
inbox alone. -/
theorem run_eq_foldWords (ws : List CmdWord) (rest : List HostInput) (s : State) :
    Host.Core.run core ws.length (setInbox s (ws.map .command ++ rest)) = foldWords ws (setInbox s rest) := by
  induction ws generalizing s with
  | nil => rfl
  | cons w ws ih =>
    obtain ⟨t, ht⟩ := execWord_setInbox_next w s
    have hstep : step (setInbox s ((w :: ws).map .command ++ rest)) =
        .next (setInbox t (ws.map .command ++ rest)) := ht _
    have hfold : foldWords (w :: ws) (setInbox s rest) = foldWords ws (setInbox t rest) :=
      foldWords_cons_next (ht rest) ws
    exact (run_succ_next hstep).trans ((ih t).trans hfold.symm)

/-- Settles O8, by induction on the words, with the inbox set apart from the rest of the state. -/
theorem historyIsLeftFold : Obligations.HistoryIsLeftFold := by
  intro s ws rest hin
  have hs : setInbox s (ws.map .command ++ rest) = s := by rw [← hin]; rfl
  have hrun := run_eq_foldWords ws rest s
  rw [hs] at hrun
  exact ⟨foldWords_next ws _, hrun⟩

end Sys2Proof.Machine
end

section
/-! SUPPORT. The packing of a type word (20 R43), and the TYPE commands on an accepted code. -/

namespace Sys2Proof.Machine

@[simp] theorem typeByte_typeWord_zero (b0 b1 b2 b3 : Byte) : typeByte (typeWord b0 b1 b2 b3) 0 = b0 := by
  ext i hi; simp [typeByte, typeWord]; grind

@[simp] theorem typeByte_typeWord_one (b0 b1 b2 b3 : Byte) : typeByte (typeWord b0 b1 b2 b3) 1 = b1 := by
  ext i hi; simp [typeByte, typeWord]; grind

@[simp] theorem typeByte_typeWord_two (b0 b1 b2 b3 : Byte) : typeByte (typeWord b0 b1 b2 b3) 2 = b2 := by
  ext i hi; simp [typeByte, typeWord]; grind

@[simp] theorem typeByte_typeWord_three (b0 b1 b2 b3 : Byte) : typeByte (typeWord b0 b1 b2 b3) 3 = b3 := by
  ext i hi; simp [typeByte, typeWord]; grind

/-- No bit of a type word lies outside its four bytes. -/
theorem typeWord_typeByte (w : Word) :
    typeWord (typeByte w 0) (typeByte w 1) (typeByte w 2) (typeByte w 3) = w := by
  ext i hi; simp [typeByte, typeWord]; grind

theorem allAlpha_typeWord (b0 b1 b2 b3 : Byte) :
    allAlpha (typeWord b0 b1 b2 b3) = (alpha b0 && alpha b1 && alpha b2 && alpha b3) := by
  simp [allAlpha]

theorem loadType_of_allAlpha {arg : Word} (h : allAlpha arg = true) (b : Block) :
    loadType arg b = respond 0x00000000#32 (setType b arg) := by
  simp [loadType, h]

/-- R102 on an accepted code. -/
theorem exec_typeLoad_of_allAlpha {arg : Word} (h : allAlpha arg = true) (s : State) :
    exec (.typeLoad arg) s = .next { s with
      typeReg := some arg, response := some ⟨0x00#8, 0x00000000#32⟩ } := by
  rw [exec, execTypeLoad, loadType_of_allAlpha h]
  rfl

/-- R103: with LEN = 4, TYPE_LOADS loads as TYPE_LOAD does. -/
theorem exec_typeLoads_four (arg : Word) (s : State) : exec (.typeLoads 4#8 arg) s = exec (.typeLoad arg) s := rfl

theorem withType_of_loaded {b : Block} {w : Word} (h : b.typeReg = some w) (body : Word → Answer) :
    withType b body = body w := by
  simp [withType, h]

/-- R104 with a type loaded. -/
theorem exec_typeRead_of_loaded {s : State} {w : Word} (h : s.typeReg = some w) :
    exec .typeRead s = .next { s with response := some ⟨0x00#8, w⟩ } := by
  rw [exec, execTypeRead, withType_of_loaded h]
  rfl

/-- R105 with a type loaded. -/
theorem exec_typeEq_of_loaded {s : State} {w : Word} (h : s.typeReg = some w) (arg : Word) :
    exec (.typeEq arg) s = .next { s with response := some ⟨0x00#8, boolResult (w == arg)⟩ } := by
  rw [exec, execTypeEq, withType_of_loaded h]
  rfl

/-- R105: the loaded word compares equal to itself. -/
theorem exec_typeEq_self_of_loaded {s : State} {w : Word} (h : s.typeReg = some w) :
    exec (.typeEq w) s = .next { s with response := some ⟨0x00#8, 0x00000001#32⟩ } := by
  simpa using exec_typeEq_of_loaded h w

/-- The three uses of a type word: an accepted load puts its ARG in TYPE_REG, TYPE_READ returns that word, and
TYPE_EQ with it answers 1. -/
theorem exec_typeLoad_read_eq {w : Word} (h : allAlpha w = true) (s : State) :
    ∃ t, exec (.typeLoad w) s = .next t ∧ t.typeReg = some w ∧
      exec .typeRead t = .next { t with response := some ⟨0x00#8, w⟩ } ∧
      exec (.typeEq w) t = .next { t with response := some ⟨0x00#8, 0x00000001#32⟩ } :=
  ⟨_, exec_typeLoad_of_allAlpha h s, rfl, exec_typeRead_of_loaded rfl,
    exec_typeEq_self_of_loaded rfl⟩

/-- Settles O30: the packing bit by bit, then the loads, the read and the comparison on one accepted type word. -/
theorem typeWordPacking : Obligations.TypeWordPacking := by
  refine ⟨fun _ _ => rfl, fun b0 b1 b2 b3 => ?unpackPacked, typeWord_typeByte, rfl, ?commands⟩
  case unpackPacked => simp
  case commands =>
    intro b0 b1 b2 b3 s load h0 h1 h2 h3 hload
    have halpha : allAlpha (typeWord b0 b1 b2 b3) = true := by simp [allAlpha_typeWord, h0, h1, h2, h3]
    obtain rfl | rfl := hload
    · exact exec_typeLoad_read_eq halpha s
    · rw [exec_typeLoads_four]
      exact exec_typeLoad_read_eq halpha s

end Sys2Proof.Machine
end

section
/-! SUPPORT. The opcode table (R66) read field by field: a row matches exactly the legal words (R60, R63, R65) that
have its opcode. So rows exclude each other, and a word is illegal iff it breaks a condition of R68. -/

namespace Sys2Proof

/-- The LEN bits that must be zero under an opcode (R60). -/
def lenZeroMask (opc : Byte) : Byte := if opc = 0x11#8 then 0x00#8 else 0xFF#8

/-- The ARG bits that must be zero under an opcode (R63). -/
def argZeroMask (opc : Byte) : Word :=
  if opc = 0x10#8 ∨ opc = 0x11#8 ∨ opc = 0x13#8 then 0x00000000#32
  else if opc = 0x02#8 then 0xFFFFFF00#32
  else 0xFFFFFFFF#32

/-- The match has no bit outside OPC, and the mask holds OPC, RSV and the LEN and ARG bits that R60 and R63 want zero. -/
structure OpcodeRow.FollowsFields (r : OpcodeRow) : Prop where
  lenField_pattern : lenField r.pattern = 0x00#8
  rsvField_pattern : rsvField r.pattern = 0x0000#16
  argField_pattern : argField r.pattern = 0x00000000#32
  opcField_mask : opcField r.mask = BitVec.allOnes 8
  lenField_mask : lenField r.mask = lenZeroMask (opcField r.pattern)
  rsvField_mask : rsvField r.mask = BitVec.allOnes 16
  argField_mask : argField r.mask = argZeroMask (opcField r.pattern)

theorem opcodeRows_followsFields : ∀ r ∈ opcodeRows, r.FollowsFields := by
  intro r hr
  constructor <;> revert r <;> decide

theorem opcodeRows_opcodes : opcodeRows.map (fun r => opcField r.pattern) = assignedOpcodes := by decide

theorem opcField_and (v w : CmdWord) : opcField (v &&& w) = opcField v &&& opcField w := BitVec.extractLsb'_and

theorem lenField_and (v w : CmdWord) : lenField (v &&& w) = lenField v &&& lenField w := BitVec.extractLsb'_and

theorem rsvField_and (v w : CmdWord) : rsvField (v &&& w) = rsvField v &&& rsvField w := BitVec.extractLsb'_and

theorem argField_and (v w : CmdWord) : argField (v &&& w) = argField v &&& argField w := BitVec.extractLsb'_and

/-- The four fields of R60 make up the whole word. -/
theorem append_fields (w : CmdWord) : opcField w ++ lenField w ++ rsvField w ++ argField w = w := by
  ext i; simp [opcField, lenField, rsvField, argField]; grind

theorem eq_iff_fields {v w : CmdWord} : v = w ↔
    opcField v = opcField w ∧ lenField v = lenField w ∧ rsvField v = rsvField w ∧ argField v = argField w := by
  constructor
  · rintro rfl
    exact ⟨rfl, rfl, rfl, rfl⟩
  · rintro ⟨hopc, hlen, hrsv, harg⟩
    rw [← append_fields v, hopc, hlen, hrsv, harg, append_fields]

theorem lenAllowed_iff (w : CmdWord) :
    lenAllowed w = true ↔ lenField w &&& lenZeroMask (opcField w) = 0x00#8 := by
  have hall : lenField w &&& 0xFF#8 = lenField w := BitVec.and_allOnes
  by_cases h : opcField w = 0x11#8 <;> simp [lenAllowed, lenZeroMask, h, hall]

theorem rsvAllowed_iff (w : CmdWord) : rsvAllowed w = true ↔ rsvField w = 0x0000#16 := by simp [rsvAllowed]

/-- R63 for CRC_BYTE: the mask's bits are ARG[31:8]. -/
theorem and_mask_eq_zero_iff_extract (v : Word) :
    v &&& 0xFFFFFF00#32 = 0x00000000#32 ↔ v.extractLsb' 8 24 = 0#24 := by
  have hsplit : v.extractLsb' 8 24 ++ v.extractLsb' 0 8 = v :=
    (BitVec.extractLsb'_append_extractLsb'_eq_extractLsb' rfl).trans BitVec.extractLsb'_eq_self
  have hand : (v.extractLsb' 8 24 ++ v.extractLsb' 0 8) &&& (BitVec.allOnes 24 ++ 0#8) =
      v.extractLsb' 8 24 ++ 0#8 := by
    rw [BitVec.and_append, BitVec.and_allOnes, BitVec.and_zero]
  rw [hsplit] at hand
  exact (Eq.congr_left hand).trans (BitVec.append_left_inj (s₂ := 0#24) 0#8)

theorem argAllowed_iff (w : CmdWord) :
    argAllowed w = true ↔ argField w &&& argZeroMask (opcField w) = 0x00000000#32 := by
  have hall : argField w &&& 0xFFFFFFFF#32 = argField w := BitVec.and_allOnes
  simp only [argAllowed, argZeroMask, Bool.or_eq_true, beq_iff_eq, or_assoc]
  split
  · simp
  · split <;> simp [and_mask_eq_zero_iff_extract, hall]

theorem wordLegal_iff (w : CmdWord) : wordLegal w = true ↔
    opcodeAssigned w = true ∧ lenAllowed w = true ∧ rsvAllowed w = true ∧ argAllowed w = true := by
  simp [wordLegal, and_assoc]

theorem opcodeAssigned_iff (w : CmdWord) :
    opcodeAssigned w = true ↔ ∃ r ∈ opcodeRows, opcField w = opcField r.pattern := by
  simp [opcodeAssigned, ← opcodeRows_opcodes, eq_comm]

/-- The two descriptions of the commands agree: a row's match and mask, and the opcode with the zero fields. -/
theorem matches_iff_wordLegal {r : OpcodeRow} (hr : r ∈ opcodeRows) (w : CmdWord) :
    w &&& r.mask = r.pattern ↔ opcField w = opcField r.pattern ∧ wordLegal w = true := by
  have hf := opcodeRows_followsFields r hr
  have hfields : w &&& r.mask = r.pattern ↔ opcField w = opcField r.pattern ∧
      lenField w &&& lenZeroMask (opcField r.pattern) = 0x00#8 ∧ rsvField w = 0x0000#16 ∧
      argField w &&& argZeroMask (opcField r.pattern) = 0x00000000#32 := by
    rw [eq_iff_fields, opcField_and, hf.opcField_mask, BitVec.and_allOnes, lenField_and, hf.lenField_mask,
      hf.lenField_pattern, rsvField_and, hf.rsvField_mask, BitVec.and_allOnes, hf.rsvField_pattern, argField_and,
      hf.argField_mask, hf.argField_pattern]
  rw [hfields, wordLegal_iff, lenAllowed_iff, rsvAllowed_iff, argAllowed_iff]
  refine and_congr_right fun hw => ?_
  have hassigned : opcodeAssigned w = true := (opcodeAssigned_iff w).mpr ⟨r, hr, hw⟩
  simp [hassigned, hw]

theorem selects_iff (r : OpcodeRow) (w : CmdWord) : r.selects w = true ↔ w &&& r.mask = r.pattern := by
  simp [OpcodeRow.selects]

theorem opcodeRows_exclusive :
    opcodeRows.Pairwise fun r r' => ∀ w, ¬ (r.selects w = true ∧ r'.selects w = true) := by
  have hdistinct : opcodeRows.Pairwise fun r r' => opcField r.pattern ≠ opcField r'.pattern := by decide
  refine hdistinct.imp_of_mem fun {r r'} hr hr' hne w h => ?_
  rw [selects_iff, selects_iff, matches_iff_wordLegal hr, matches_iff_wordLegal hr'] at h
  obtain ⟨⟨hopc, -⟩, hopc', -⟩ := h
  exact hne (hopc.symm.trans hopc')

/-- Where rows exclude each other, R67's loop finds the row that matches, wherever it stands. -/
theorem decodeRows_of_mem {rs : List OpcodeRow} {w : CmdWord}
    (hrs : rs.Pairwise fun r r' => ∀ w, ¬ (r.selects w = true ∧ r'.selects w = true)) {r : OpcodeRow}
    (hr : r ∈ rs) (hw : r.selects w = true) : decodeRows rs w = some (r.build w) := by
  induction rs with
  | nil => cases hr
  | cons r₀ rs ih =>
    obtain ⟨hfirst, hrest⟩ := List.pairwise_cons.mp hrs
    obtain rfl | hr := List.mem_cons.mp hr
    · simp [decodeRows, hw]
    · have hnot : ¬ r₀.selects w = true := fun h₀ => hfirst r hr w ⟨h₀, hw⟩
      rw [decodeRows, if_neg hnot, ih hrest hr]

theorem decode_of_matches {r : OpcodeRow} (hr : r ∈ opcodeRows) {w : CmdWord} (hw : w &&& r.mask = r.pattern) :
    decode w = .command (r.build w) :=
  decode_command.mpr (decodeRows_of_mem opcodeRows_exclusive hr ((selects_iff r w).mpr hw))

theorem exists_decode_illegal_iff (w : CmdWord) :
    (∃ why, decode w = .illegal why) ↔ ∀ r ∈ opcodeRows, ¬ w &&& r.mask = r.pattern := by
  rw [← decodeRows_none]
  constructor
  · rintro ⟨why, h⟩
    exact (decode_illegal h).1
  · intro h
    exact ⟨illegalReason w, by simp [decode, h]⟩

theorem wordLegal_iff_exists_matches (w : CmdWord) :
    wordLegal w = true ↔ ∃ r ∈ opcodeRows, w &&& r.mask = r.pattern := by
  constructor
  · intro h
    obtain ⟨hassigned, -⟩ := (wordLegal_iff w).mp h
    obtain ⟨r, hr, hopc⟩ := (opcodeAssigned_iff w).mp hassigned
    exact ⟨r, hr, (matches_iff_wordLegal hr w).mpr ⟨hopc, h⟩⟩
  · rintro ⟨r, hr, hw⟩
    exact ((matches_iff_wordLegal hr w).mp hw).2

/-- R68: a word is illegal iff one of the conditions of R60, R63 and R65 fails. -/
theorem exists_decode_illegal_iff_not_wordLegal (w : CmdWord) :
    (∃ why, decode w = .illegal why) ↔ wordLegal w = false := by
  rw [exists_decode_illegal_iff, ← Bool.not_eq_true, wordLegal_iff_exists_matches]
  simp

/-- Settles O12: the rows as they stand, and the rest from the rows' excluding each other. -/
theorem opcodeTableRows : Obligations.OpcodeTableRows :=
  ⟨fun _ => rfl, fun r _ w => selects_iff r w, opcodeRows_exclusive, fun _ hr _ hw => decode_of_matches hr hw,
    fun w h => (exists_decode_illegal_iff w).mpr h⟩

theorem toNat_opcField (w : CmdWord) : (opcField w).toNat = w.toNat / 2 ^ 56 := by
  simp [opcField, Nat.shiftRight_eq_div_pow]
  omega

/-- R68's list of the unassigned opcodes. -/
theorem contains_assignedOpcodes_eq_false_iff (opc : Byte) : assignedOpcodes.contains opc = false ↔
    (opc.toNat = 0x00 ∨ (0x04 ≤ opc.toNat ∧ opc.toNat ≤ 0x0F) ∨ (0x14 ≤ opc.toNat ∧ opc.toNat ≤ 0x1F) ∨
      (0x25 ≤ opc.toNat ∧ opc.toNat ≤ 0xFF)) := by
  simp [assignedOpcodes, ← BitVec.toNat_inj]
  omega

/-- Settles O13: R68's conditions are the negation of legality, the ranges are the complement of the twelve
opcodes, and an illegal word is answered by `raise`, which writes nothing. -/
theorem illegalWords : Obligations.IllegalWords := by
  refine ⟨fun w => ?conditions, fun w => ?ranges, ?count, ⟨.unassignedOpcode, by decide⟩,
    fun w why s h => ?response⟩
  case conditions =>
    rw [exists_decode_illegal_iff_not_wordLegal]
    simp only [wordLegal, Bool.and_eq_false_iff, or_assoc]
  case count => decide +kernel
  case ranges => rw [opcodeAssigned, contains_assignedOpcodes_eq_false_iff, toNat_opcField]
  case response => exact Machine.execWord_illegal h s

end Sys2Proof
end

section
/-! SUPPORT. The decoder reads the encoder's words back: each is a legal word with its command's opcode, so it is
decoded by its command's row (R66), which passes the fields the word was made from (R67). -/

namespace Sys2Proof

theorem fieldArg_commandWord (opc len : Byte) (arg : Word) : fieldArg (commandWord opc len arg) = arg :=
  commandWord_arg opc len arg

theorem fieldLen_commandWord (opc len : Byte) (arg : Word) : fieldLen (commandWord opc len arg) = len :=
  commandWord_len opc len arg

theorem fieldB_eq (w : CmdWord) : fieldB w = (fieldArg w).setWidth 8 := by
  ext i hi
  simp [fieldB, fieldArg]
  omega

/-- The byte of a CRC_BYTE word is the byte it was made from (R63, R67). -/
theorem fieldB_commandWord (opc len b : Byte) : fieldB (commandWord opc len (b.setWidth 32)) = b := by
  rw [fieldB_eq, fieldArg_commandWord, BitVec.setWidth_setWidth_of_le b (by decide), BitVec.setWidth_eq]

/-- A legal word made with a row's opcode decodes to what the row builds. -/
theorem decode_commandWord {r : OpcodeRow} (hr : r ∈ opcodeRows) {opc len : Byte} {arg : Word} {i : Instr}
    (hrow : opcField r.pattern = opc) (hlegal : wordLegal (commandWord opc len arg) = true)
    (hbuild : r.build (commandWord opc len arg) = i) : decode (commandWord opc len arg) = .command i := by
  have hopc : opcField (commandWord opc len arg) = opcField r.pattern := by rw [commandWord_opc, hrow]
  rw [decode_of_matches hr ((matches_iff_wordLegal hr _).mpr ⟨hopc, hlegal⟩), hbuild]

/-- R67 reads back what R60, R63 and R65 write. -/
theorem decode_encode (i : Instr) : decode (encode i) = .command i := by
  cases i with
  | crcByte b =>
    exact decode_commandWord (r := opcodeRows[1]) (List.getElem_mem _) rfl (Laws.EncodesLegal.crcByte b)
      (congrArg Instr.crcByte (fieldB_commandWord _ _ b))
  | typeLoad arg =>
    exact decode_commandWord (r := opcodeRows[3]) (List.getElem_mem _) rfl (Laws.EncodesLegal.typeLoad arg)
      (congrArg Instr.typeLoad (fieldArg_commandWord _ _ arg))
  | typeLoads len arg =>
    exact decode_commandWord (r := opcodeRows[4]) (List.getElem_mem _) rfl (Laws.EncodesLegal.typeLoads len arg)
      (congrArg₂ Instr.typeLoads (fieldLen_commandWord _ len arg) (fieldArg_commandWord _ len arg))
  | typeEq arg =>
    exact decode_commandWord (r := opcodeRows[6]) (List.getElem_mem _) rfl (Laws.EncodesLegal.typeEq arg)
      (congrArg Instr.typeEq (fieldArg_commandWord _ _ arg))
  | crcStart | crcFinal | typeRead | typeIsvalid | typeIscrit | typeIspub | typeIsrsv | typeIssafe => decide

end Sys2Proof
end

section
/-! SUPPORT. The assembler's words run by the block (30 R73, R74): the string operand of TYPE_LOADS, and the fold over
one `crc32` call. -/

namespace Sys2Proof.Machine

theorem execWord_encode (i : Instr) (s : State) : execWord (encode i) s = exec i s :=
  execWord_command (decode_encode i) s

theorem foldWords_encode_cons {i : Instr} {s t : State} (h : exec i s = .next t) (ws : List CmdWord) :
    foldWords (encode i :: ws) s = foldWords ws t :=
  foldWords_cons_next ((execWord_encode i s).trans h) ws

/-- A program of one command does what the command does. -/
theorem foldWords_encode_singleton (i : Instr) (s : State) : foldWords [encode i] s = exec i s := by
  obtain ⟨body, hbody⟩ := exec_answer i
  have h : exec i s = .next (complete s (body s.block)) := hbody s
  rw [foldWords_encode_cons h, h, foldWords]

/-- R73: saturation at 255 makes no other length look like 4. -/
theorem lenOperand_eq_four_iff (n : Nat) : lenOperand n = 4#8 ↔ n = 4 := by
  simp [lenOperand, ← BitVec.toNat_inj]
  omega

theorem stringArg_of_length_ne_four {str : List Byte} (h : str.length ≠ 4) : stringArg str = 0x00000000#32 := by
  unfold stringArg
  split
  · simp at h
  · rfl

/-- R73: the assembler writes ARG only where LEN is 4. -/
theorem asmForm_typeLoads_string (str : List Byte) :
    (Instr.typeLoads (lenOperand str.length) (stringArg str)).asmForm = true := by
  by_cases h : str.length = 4
  · simp [Instr.asmForm, lenOperand_eq_four_iff, h]
  · simp [Instr.asmForm, stringArg_of_length_ne_four h]

/-- R103 on a length other than 4, whatever ARG holds. -/
theorem exec_typeLoads_of_ne_four {len : Byte} (h : len ≠ 4#8) (arg : Word) (s : State) :
    exec (.typeLoads len arg) s = .next { s with response := some ⟨0x02#8, 0x00000000#32⟩ } := by
  rw [exec, execTypeLoads, if_pos h]
  rfl

/-- Settles O48: LEN is 4 for strings of four bytes alone, so every other string stops at TYPE_LOADS's length check. -/
theorem stringLoadOutcome : Obligations.StringLoadOutcome := by
  refine ⟨fun _ => rfl, lenOperand_eq_four_iff, fun str => ⟨rfl, asmForm_typeLoads_string str⟩,
    fun _ _ _ _ => rfl, fun str hlen => ⟨stringArg_of_length_ne_four hlen, fun s => ?otherLength⟩,
    fun b0 b1 b2 b3 s => ?fourBytes⟩
  case otherLength =>
    have hne : stringLen str ≠ 4#8 := fun h => hlen ((lenOperand_eq_four_iff str.length).mp h)
    exact (foldWords_encode_singleton _ s).trans (exec_typeLoads_of_ne_four hne (stringArg str) s)
  case fourBytes => exact (foldWords_encode_singleton _ s).trans (exec_typeLoads_four (typeWord b0 b1 b2 b3) s)

/-- R143 and R146: with a call open, the words of `crc.bytes` fold the bytes into CRC_REG and leave the call open. -/
theorem foldWords_crcBytes (m : List Byte) {s : State} (hs : s.crcOpen = true) :
    ∃ t, t.crcOpen = true ∧ t.crcReg = crcFold s.crcReg m ∧
      ∀ ws, foldWords (m.map (fun b => encode (.crcByte b)) ++ ws) s = foldWords ws t := by
  induction m generalizing s with
  | nil => exact ⟨s, hs, rfl, fun _ => rfl⟩
  | cons b m ih =>
    have hbyte := exec_crcByte_of_open hs b
    obtain ⟨t, hopen, hreg, hfold⟩ := ih (s := { s with
      crcReg := crcStep s.crcReg b, response := some ⟨0x00#8, 0x00000000#32⟩ }) hs
    exact ⟨t, hopen, hreg, fun ws => (foldWords_encode_cons hbyte _).trans (hfold ws)⟩

/-- R148 for the commands of one call without others between them: from any state, the response is the checksum. -/
theorem foldWords_callWords (m : List Byte) (s : State) :
    ∃ t, foldWords (callWords m) s = .next t ∧ t.response = some ⟨0x00#8, crc32 m⟩ := by
  obtain ⟨u, hopen, hreg, hfold⟩ := foldWords_crcBytes m (s := { s with
    crcReg := 0xFFFFFFFF#32, crcOpen := true, response := some ⟨0x00#8, 0x00000000#32⟩ }) rfl
  have hcall : foldWords (callWords m) s = foldWords [encode .crcFinal] u :=
    (foldWords_encode_cons (exec_crcStart s) _).trans (hfold _)
  rw [hcall, foldWords_encode_singleton, exec_crcFinal_of_open hopen, hreg]
  exact ⟨_, rfl, rfl⟩

/-- Settles O49: the expansions as the assembler writes them, and the call's words run from any state. -/
theorem pseudoInstructions : Obligations.PseudoInstructions :=
  ⟨rfl, fun _ _ => rfl, fun _ => rfl, fun _ => rfl, foldWords_callWords⟩

end Sys2Proof.Machine
end

section
/-! SUPPORT. The decoder read one command at a time (R66, R67): a word decodes to a command iff it matches that
command's row and the row's fields are the operands. -/

namespace Sys2Proof

theorem decode_command_iff_matches {w : CmdWord} {i : Instr} :
    decode w = .command i ↔ ∃ r ∈ opcodeRows, w &&& r.mask = r.pattern ∧ i = r.build w := by
  constructor
  · exact fun h => decodeRows_some (decode_command.mp h)
  · rintro ⟨r, hr, hw, rfl⟩
    exact decode_of_matches hr hw

theorem decode_typeLoad_iff (w : CmdWord) (arg : Word) : decode w = .command (.typeLoad arg) ↔
    w &&& 0xFFFFFFFF00000000#64 = 0x1000000000000000#64 ∧ arg = w.extractLsb' 0 32 := by
  simp [decode_command_iff_matches, opcodeRows, fieldArg]

theorem decode_typeLoads_iff (w : CmdWord) (len : Byte) (arg : Word) : decode w = .command (.typeLoads len arg) ↔
    w &&& 0xFF00FFFF00000000#64 = 0x1100000000000000#64 ∧ len = w.extractLsb' 48 8 ∧
      arg = w.extractLsb' 0 32 := by
  simp [decode_command_iff_matches, opcodeRows, fieldArg, fieldLen]

theorem decode_typeRead_iff (w : CmdWord) : decode w = .command .typeRead ↔
    w &&& 0xFFFFFFFFFFFFFFFF#64 = 0x1200000000000000#64 := by
  simp [decode_command_iff_matches, opcodeRows]

theorem decode_typeEq_iff (w : CmdWord) (arg : Word) : decode w = .command (.typeEq arg) ↔
    w &&& 0xFFFFFFFF00000000#64 = 0x1300000000000000#64 ∧ arg = w.extractLsb' 0 32 := by
  simp [decode_command_iff_matches, opcodeRows, fieldArg]

theorem decode_typeIsvalid_iff (w : CmdWord) : decode w = .command .typeIsvalid ↔
    w &&& 0xFFFFFFFFFFFFFFFF#64 = 0x2000000000000000#64 := by
  simp [decode_command_iff_matches, opcodeRows]

theorem decode_typeIscrit_iff (w : CmdWord) : decode w = .command .typeIscrit ↔
    w &&& 0xFFFFFFFFFFFFFFFF#64 = 0x2100000000000000#64 := by
  simp [decode_command_iff_matches, opcodeRows]

theorem decode_typeIsrsv_iff (w : CmdWord) : decode w = .command .typeIsrsv ↔
    w &&& 0xFFFFFFFFFFFFFFFF#64 = 0x2300000000000000#64 := by
  simp [decode_command_iff_matches, opcodeRows]

end Sys2Proof
end

section
/-! SUPPORT. The loads (R102, R103): a code that is not alphabetic is refused and nothing is written. -/

namespace Sys2Proof.Machine

/-- R100 in numbers. -/
theorem alpha_iff_toNat (b : Byte) : alpha b = true ↔
    (0x41 ≤ b.toNat ∧ b.toNat ≤ 0x5A) ∨ (0x61 ≤ b.toNat ∧ b.toNat ≤ 0x7A) := by
  simp [alpha, BitVec.le_def]

/-- R102: the four neighbours of the two ranges, and every byte from 0x80, are not alphabetic. -/
theorem alpha_eq_false_of_neighbour_or_high {b : Byte}
    (h : b ∈ [0x40#8, 0x5B#8, 0x60#8, 0x7B#8] ∨ 0x80#8 ≤ b) : alpha b = false := by
  rw [← Bool.not_eq_true, alpha_iff_toNat]
  obtain hmem | hhigh := h
  · simp only [List.mem_cons, List.not_mem_nil, or_false] at hmem
    obtain rfl | rfl | rfl | rfl := hmem <;> decide
  · have hnum : 0x80 ≤ b.toNat := BitVec.le_def.mp hhigh
    omega

/-- R102 on a refused code. -/
theorem exec_typeLoad_of_not_allAlpha {arg : Word} (h : allAlpha arg = false) (s : State) :
    exec (.typeLoad arg) s = .next { s with response := some ⟨0x01#8, 0x00000000#32⟩ } := by
  have hraise : loadType arg s.block = raise .invalidCharacter s.block := by simp [loadType, h]
  rw [exec, execTypeLoad, hraise]
  rfl

/-- R102: a load repeated in its own next state, accepted or not, changes nothing. -/
theorem exec_typeLoad_idempotent {arg : Word} {s t : State} (h : exec (.typeLoad arg) s = .next t) :
    exec (.typeLoad arg) t = .next t := by
  cases harg : allAlpha arg with
  | true =>
    cases (exec_typeLoad_of_allAlpha harg s).symm.trans h
    exact exec_typeLoad_of_allAlpha harg _
  | false =>
    cases (exec_typeLoad_of_not_allAlpha harg s).symm.trans h
    exact exec_typeLoad_of_not_allAlpha harg _

/-- Settles O31: the two outcomes of the alphabetic check; the named bytes and the last word are codes it refuses. -/
theorem typeLoadRule : Obligations.TypeLoadRule := by
  have refuses (arg : Word) (s : State) (h : ∃ i, alpha (typeByte arg i) = false) :=
    exec_typeLoad_of_not_allAlpha ((allAlpha_eq_false_iff arg).mpr h) s
  exact ⟨decode_typeLoad_iff, fun arg s h => exec_typeLoad_of_allAlpha ((allAlpha_iff arg).mpr h) s, refuses,
    fun arg s i h => refuses arg s ⟨i, alpha_eq_false_of_neighbour_or_high h⟩,
    fun _ _ _ h => exec_typeLoad_idempotent h,
    fun s => (execWord_encode (.typeLoad 0x31323334#32) s).trans (exec_typeLoad_of_not_allAlpha (by decide) s)⟩

/-- R103 on an accepted code. -/
theorem exec_typeLoads_of_allAlpha {arg : Word} (h : allAlpha arg = true) (s : State) :
    exec (.typeLoads 4#8 arg) s = .next { s with
      typeReg := some arg, response := some ⟨0x00#8, 0x00000000#32⟩ } :=
  (exec_typeLoads_four arg s).trans (exec_typeLoad_of_allAlpha h s)

/-- Settles O32: LEN other than 4 stops at the length check, and LEN 4 loads as TYPE_LOAD does. -/
theorem typeLoadsRule : Obligations.TypeLoadsRule := by
  refine ⟨decode_typeLoads_iff, fun _ arg s h => exec_typeLoads_of_ne_four h arg s,
    fun arg s h => ?accepted, fun arg s h => ?refused, fun s => ?ruSt⟩
  case accepted => exact exec_typeLoads_of_allAlpha ((allAlpha_iff arg).mpr h) s
  case refused =>
    rw [exec_typeLoads_four]
    exact exec_typeLoad_of_not_allAlpha ((allAlpha_eq_false_iff arg).mpr h) s
  case ruSt =>
    exact (execWord_encode (.typeLoads 4#8 0x72755374#32) s).trans (exec_typeLoads_of_allAlpha (by decide) s)

end Sys2Proof.Machine
end

section
/-! SUPPORT. The TYPE readers (R104 to R110): NoType without a type, and with one a response computed from TYPE_REG.
Under I-TYPE (R25) that word is alphabetic. -/

namespace Sys2Proof.Machine

/-- R205: every TYPE reader with no type loaded. -/
theorem exec_typeReader_of_unloaded {i : Instr} (hi : i.isTypeReader = true) {s : State} (h : s.typeReg = none) :
    exec i s = .next { s with response := some ⟨0x03#8, 0x00000000#32⟩ } := by
  have hgate (body : Word → Answer) : answer s (withType s.block body) =
      .next { s with response := some ⟨0x03#8, 0x00000000#32⟩ } := by
    have hraise : withType s.block body = raise .noType s.block := by simp [withType, h]
    rw [hraise]
    rfl
  cases i with
  | typeRead | typeEq _ | typeIsvalid | typeIscrit | typeIspub | typeIsrsv | typeIssafe => exact hgate _
  | _ => cases hi

/-- A program of two commands does the one and then the other. -/
theorem foldWords_encode_pair {i j : Instr} {s t u : State} (hi : exec i s = .next t) (hj : exec j t = .next u) :
    foldWords [encode i, encode j] s = .next u :=
  (foldWords_encode_cons hi _).trans ((foldWords_encode_singleton j t).trans hj)

theorem boolResult_eq_ite {p : Bool} {q : Prop} [Decidable q] (h : p = true ↔ q) :
    boolResult p = if q then 0x00000001#32 else 0x00000000#32 := by
  simp [boolResult, h]

/-- R104 under I-TYPE: a code that TYPE_READ returns is alphabetic. -/
theorem alpha_typeRead_result {s t : State} {r : Response} (hinv : TypeInv s) (h : exec .typeRead s = .next t)
    (hr : t.response = some r) (hok : r.status = 0x00#8) (i : Fin 4) : alpha (typeByte r.result i) = true := by
  cases hs : s.typeReg with
  | none =>
    cases (exec_typeReader_of_unloaded rfl hs).symm.trans h
    cases hr
    cases hok
  | some w =>
    cases (exec_typeRead_of_loaded hs).symm.trans h
    cases hr
    exact (allAlpha_iff w).mp (hinv w hs) i

/-- Settles O33: TYPE_READ with a type, without one, and what I-TYPE says of the code it returns. -/
theorem typeReadRule : Obligations.TypeReadRule :=
  ⟨decode_typeRead_iff, fun _ _ h => exec_typeRead_of_loaded h, fun _ h => exec_typeReader_of_unloaded rfl h,
    fun _ _ _ hinv h hr hok i => alpha_typeRead_result hinv h hr hok i,
    fun s => ⟨_, foldWords_encode_pair (i := .typeLoad 0x49454E44#32) (j := .typeRead)
      (exec_typeLoad_of_allAlpha (by decide) s) (exec_typeRead_of_loaded rfl), rfl⟩⟩

/-- R105 with a type loaded, in the rule's own terms. -/
theorem exec_typeEq_eq_ite {s : State} {w : Word} (h : s.typeReg = some w) (arg : Word) :
    exec (.typeEq arg) s = .next { s with
      response := some ⟨0x00#8, if w = arg then 0x00000001#32 else 0x00000000#32⟩ } := by
  rw [exec_typeEq_of_loaded h, boolResult_eq_ite beq_iff_eq]

/-- R105: "a loaded code is always alphabetic", so it differs from an ARG that is not. -/
theorem exec_typeEq_of_not_allAlpha {s : State} {w arg : Word} (hinv : TypeInv s) (h : s.typeReg = some w)
    (harg : allAlpha arg = false) :
    exec (.typeEq arg) s = .next { s with response := some ⟨0x00#8, 0x00000000#32⟩ } := by
  have hne : w ≠ arg := by
    rintro rfl
    exact Bool.false_ne_true (harg.symm.trans (hinv w h))
  rw [exec_typeEq_eq_ite h, if_neg hne]

/-- TYPE_EQ after an accepted TYPE_LOADS of four bytes. -/
theorem foldWords_typeLoads_typeEq {w : Word} (h : allAlpha w = true) (arg : Word) (s : State) :
    ∃ t, foldWords [encode (.typeLoads 4#8 w), encode (.typeEq arg)] s = .next t ∧
      t.response = some ⟨0x00#8, boolResult (w == arg)⟩ :=
  ⟨_, foldWords_encode_pair (exec_typeLoads_of_allAlpha h s) (exec_typeEq_of_loaded rfl arg), rfl⟩

/-- Settles O34: the raw comparison, and I-TYPE for an ARG that is not alphabetic. -/
theorem typeEqRule : Obligations.TypeEqRule := by
  refine ⟨decode_typeEq_iff, fun _ _ arg h => exec_typeEq_eq_ite h arg,
    fun _ _ h => exec_typeReader_of_unloaded rfl h,
    fun _ _ arg hinv h harg => exec_typeEq_of_not_allAlpha hinv h ((allAlpha_eq_false_iff arg).mpr harg),
    fun s => ?examples⟩
  case examples =>
    have halpha : allAlpha 0x72755374#32 = true := by decide
    obtain ⟨t, ht, hr⟩ := foldWords_typeLoads_typeEq halpha 0x72755374#32 s
    obtain ⟨t', ht', hr'⟩ := foldWords_typeLoads_typeEq halpha 0x52755374#32 s
    exact ⟨t, t', ht, hr, ht', hr'⟩

end Sys2Proof.Machine
end

section
/-! SUPPORT. The property readers (R106 to R110), which share one shape: a predicate of TYPE_REG as 1 or 0. -/

namespace Sys2Proof.Machine

/-- Bit 5 of byte 0 is TYPE_REG[29] (R101, R107). -/
theorem crit_iff (w : Word) : crit w = true ↔ w.getLsbD 29 = false := by
  simp [crit, propertyBit_eq]

/-- Bit 5 of byte 2 is TYPE_REG[13] (R101, R109). -/
theorem rsvok_iff (w : Word) : rsvok w = true ↔ w.getLsbD 13 = false := by
  simp [rsvok, propertyBit_eq]

theorem valid_iff (w : Word) :
    valid w = true ↔ (∀ i, alpha (typeByte w i) = true) ∧ w.getLsbD 13 = false := by
  rw [valid, Bool.and_eq_true, allAlpha_iff, rsvok_iff]

theorem answer_readProperty_of_loaded {s : State} {w : Word} (h : s.typeReg = some w) (p : Word → Bool) :
    answer s (readProperty p s.block) = .next { s with response := some ⟨0x00#8, boolResult (p w)⟩ } := by
  rw [readProperty, withType_of_loaded h]
  rfl

/-- The command reads the property `p` of TYPE_REG. -/
def ReadsProperty (i : Instr) (p : Word → Bool) : Prop := ∀ s, exec i s = answer s (readProperty p s.block)

theorem readsProperty_typeIsvalid : ReadsProperty .typeIsvalid valid := fun _ => rfl

theorem readsProperty_typeIscrit : ReadsProperty .typeIscrit crit := fun _ => rfl

theorem readsProperty_typeIsrsv : ReadsProperty .typeIsrsv rsvok := fun _ => rfl

theorem ReadsProperty.exec_of_loaded {i : Instr} {p : Word → Bool} (hi : ReadsProperty i p) {s : State} {w : Word}
    (h : s.typeReg = some w) : exec i s = .next { s with response := some ⟨0x00#8, boolResult (p w)⟩ } :=
  (hi s).trans (answer_readProperty_of_loaded h p)

/-- A property reader with a type loaded, for a property that the rule states in other words. -/
theorem ReadsProperty.exec_eq_ite {i : Instr} {p : Word → Bool} (hi : ReadsProperty i p) {s : State} {w : Word}
    (h : s.typeReg = some w) {q : Prop} [Decidable q] (hq : p w = true ↔ q) : exec i s = .next { s with
      response := some ⟨0x00#8, if q then 0x00000001#32 else 0x00000000#32⟩ } := by
  rw [hi.exec_of_loaded h, boolResult_eq_ite hq]

/-- A property reader after an accepted TYPE_LOAD; the code stays loaded. -/
theorem ReadsProperty.foldWords_typeLoad {i : Instr} {p : Word → Bool} (hi : ReadsProperty i p) {w : Word}
    (h : allAlpha w = true) (s : State) :
    ∃ t, foldWords [encode (.typeLoad w), encode i] s = .next t ∧
      t.response = some ⟨0x00#8, boolResult (p w)⟩ ∧ t.typeReg = some w :=
  ⟨_, foldWords_encode_pair (exec_typeLoad_of_allAlpha h s) (hi.exec_of_loaded rfl), rfl, rfl⟩

/-- A property reader on two accepted codes. -/
theorem ReadsProperty.foldWords_typeLoad_both {i : Instr} {p : Word → Bool} (hi : ReadsProperty i p) {w w' : Word}
    (h : allAlpha w = true) (h' : allAlpha w' = true) (s : State) :
    ∃ t t', foldWords [encode (.typeLoad w), encode i] s = .next t ∧ t.response = some ⟨0x00#8, boolResult (p w)⟩ ∧
      foldWords [encode (.typeLoad w'), encode i] s = .next t' ∧ t'.response = some ⟨0x00#8, boolResult (p w')⟩ := by
  obtain ⟨t, ht, hr, -⟩ := hi.foldWords_typeLoad h s
  obtain ⟨t', ht', hr', -⟩ := hi.foldWords_typeLoad h' s
  exact ⟨t, t', ht, hr, ht', hr'⟩

/-- R106, R109: under I-TYPE the alphabetic part of validity always holds, so the two commands answer alike. -/
theorem exec_typeIsvalid_eq_typeIsrsv {s : State} (hinv : TypeInv s) : exec .typeIsvalid s = exec .typeIsrsv s := by
  cases hs : s.typeReg with
  | none => rw [exec_typeReader_of_unloaded rfl hs, exec_typeReader_of_unloaded rfl hs]
  | some w =>
    rw [readsProperty_typeIsvalid.exec_of_loaded hs, readsProperty_typeIsrsv.exec_of_loaded hs,
      valid_of_allAlpha (hinv w hs)]

/-- Settles O35: the conjunction of R106, and I-TYPE for the equality with TYPE_ISRSV. -/
theorem typeIsvalidRule : Obligations.TypeIsvalidRule := by
  refine ⟨decode_typeIsvalid_iff, fun _ w h => readsProperty_typeIsvalid.exec_eq_ite h (valid_iff w),
    fun _ h => exec_typeReader_of_unloaded rfl h, fun _ hinv => exec_typeIsvalid_eq_typeIsrsv hinv,
    fun s => ?examples⟩
  case examples =>
    obtain ⟨t, ht, hr, -⟩ := readsProperty_typeIsvalid.foldWords_typeLoad (w := 0x52755374#32) (by decide) s
    obtain ⟨t', ht', hr', hreg⟩ := readsProperty_typeIsvalid.foldWords_typeLoad (w := 0x52757374#32) (by decide) s
    exact ⟨t, t', ht, hr, ht', hr', hreg⟩

/-- Settles O36: the property bit of byte 0 is TYPE_REG[29]. -/
theorem typeIscritRule : Obligations.TypeIscritRule :=
  ⟨decode_typeIscrit_iff, fun _ w h => readsProperty_typeIscrit.exec_eq_ite h (crit_iff w),
    fun _ h => exec_typeReader_of_unloaded rfl h,
    readsProperty_typeIscrit.foldWords_typeLoad_both (w := 0x49484452#32) (w' := 0x72755374#32)
      (by decide) (by decide)⟩

/-- Settles O38: the property bit of byte 2 is TYPE_REG[13], and I-TYPE for the equality with TYPE_ISVALID. -/
theorem typeIsrsvRule : Obligations.TypeIsrsvRule :=
  ⟨decode_typeIsrsv_iff, fun _ w h => readsProperty_typeIsrsv.exec_eq_ite h (rsvok_iff w),
    fun _ h => exec_typeReader_of_unloaded rfl h, fun _ hinv => (exec_typeIsvalid_eq_typeIsrsv hinv).symm,
    readsProperty_typeIsrsv.foldWords_typeLoad_both (w := 0x72755374#32) (w' := 0x7A7A7A7A#32)
      (by decide) (by decide)⟩

end Sys2Proof.Machine
end

section
/-! SUPPORT. CrcStep one message bit at a time (R141), and the checksum of a message one byte longer (R143). -/

namespace Sys2Proof.Machine

theorem crcShiftN_eq_iterate (n : Nat) (c : Word) : crcShiftN n c = crcShift^[n] c := by
  induction n generalizing c with
  | zero => rfl
  | succ n ih => exact ih (crcShift c)

/-- One shift of a register that takes the message bit as it shifts, where `crcShift` has it in bit 0 already (R141). -/
def crcShiftBit (c : Word) (bit : Bool) : Word :=
  (c >>> 1) ^^^ (if (c.getLsbD 0 ^^ bit) = true then crcPolyReflected else 0x00000000#32)

/-- Message bits in `d` reach the divisor alike whether they are in the register from the start or come one by one:
after a shift, the bits not yet taken are the only difference. -/
theorem crcShiftBit_xor (c d : Word) : crcShiftBit (c ^^^ d) (d.getLsbD 0) = crcShift c ^^^ (d >>> 1) := by
  have hbit : ((c ^^^ d).getLsbD 0 ^^ d.getLsbD 0) = c.getLsbD 0 := by simp
  rw [crcShiftBit, hbit, BitVec.ushiftRight_xor_distrib, crcShift_eq]
  ac_rfl

/-- After n bits of `d`, lowest first, the bit-serial register is the shifted `c ^ d` but for the bits of `d` not
yet taken. -/
theorem foldl_crcShiftBit (c d : Word) (n : Nat) :
    (List.range n).foldl (fun c j => crcShiftBit c (d.getLsbD j)) c = crcShiftN n (c ^^^ d) ^^^ (d >>> n) := by
  induction n with
  | zero => simp [crcShiftN]
  | succ n ih =>
    have hnext : d.getLsbD n = (d >>> n).getLsbD 0 := by simp
    rw [List.range_succ, List.foldl_append, ih, List.foldl_cons, List.foldl_nil, hnext, crcShiftBit_xor,
      crcShiftN_eq_iterate, crcShiftN_eq_iterate, Function.iterate_succ_apply', BitVec.shiftRight_add]

@[simp] theorem getLsbD_zextByte (b : Byte) (j : Nat) : (zextByte b).getLsbD j = b.getLsbD j := by
  rw [zextByte, BitVec.getLsbD_setWidth, Bool.and_eq_right_iff_imp, decide_eq_true_eq]
  intro hj
  have hlt : j < 8 := BitVec.lt_of_getLsbD hj
  omega

/-- Eight bits are the whole byte. -/
theorem zextByte_ushiftRight_eight (b : Byte) : zextByte b >>> 8 = 0x00000000#32 := by
  ext i hi
  simp

theorem crcStep_eq_foldl_crcShiftBit (c : Word) (b : Byte) :
    crcStep c b = (List.range 8).foldl (fun c j => crcShiftBit c (b.getLsbD j)) c := by
  have hserial := foldl_crcShiftBit c (zextByte b) 8
  simp only [zextByte_ushiftRight_eight, BitVec.xor_zero, getLsbD_zextByte] at hserial
  exact hserial.symm

/-- Settles O19: the eight shifts are an iteration, and a bit may enter when it reaches bit 0 of the register. -/
theorem crcStepBitSerial : Obligations.CrcStepBitSerial :=
  ⟨fun c b => crcShiftN_eq_iterate 8 (c ^^^ zextByte b), crcStep_eq_foldl_crcShiftBit⟩

theorem crc32_nil : crc32 [] = 0x00000000#32 := BitVec.xor_self

/-- R143's loop takes one more byte: the final exclusive-or is undone, and done again after the step. -/
theorem crc32_append_singleton (m : List Byte) (b : Byte) :
    crc32 (m ++ [b]) = crcStep (crc32 m ^^^ crcXorOut) b ^^^ crcXorOut := by
  have hreg : crc32 m ^^^ crcXorOut = crcFold crcInit m := by simp [crc32]
  rw [hreg, crc32, crcFold_append, crcFold_cons, crcFold_nil]

/-- Settles O22: R143's loop is a left fold. -/
theorem crc32OfMessage : Obligations.Crc32OfMessage :=
  ⟨crc32_nil, fun _ => rfl, crc32_append_singleton⟩

end Sys2Proof.Machine
end

section
/-! SUPPORT. The words of the CRC commands (R145 to R147), and the CRC_BYTE words that R63 makes illegal. -/

namespace Sys2Proof

theorem decode_crcStart_iff (w : CmdWord) : decode w = .command .crcStart ↔
    w &&& 0xFFFFFFFFFFFFFFFF#64 = 0x0100000000000000#64 := by
  simp [decode_command_iff_matches, opcodeRows]

theorem decode_crcByte_iff (w : CmdWord) (b : Byte) : decode w = .command (.crcByte b) ↔
    w &&& 0xFFFFFFFFFFFFFF00#64 = 0x0200000000000000#64 ∧ b = w.extractLsb' 0 8 := by
  simp [decode_command_iff_matches, opcodeRows, fieldB]

theorem decode_crcFinal_iff (w : CmdWord) : decode w = .command .crcFinal ↔
    w &&& 0xFFFFFFFFFFFFFFFF#64 = 0x0300000000000000#64 := by
  simp [decode_command_iff_matches, opcodeRows]

/-- R63: under CRC_BYTE's opcode, ARG[31:8] must be zero. -/
theorem wordLegal_eq_false_of_crcByte_arg {w : CmdWord} (hopc : opcField w = 0x02#8)
    (harg : w.extractLsb' 8 24 ≠ 0#24) : wordLegal w = false := by
  rw [← Bool.not_eq_true, wordLegal_iff, argAllowed_iff, hopc]
  rintro ⟨-, -, -, hzero⟩
  have hfield : (argField w).extractLsb' 8 24 = w.extractLsb' 8 24 := by
    ext i hi
    simp [argField]
  exact harg (hfield.symm.trans ((and_mask_eq_zero_iff_extract _).mp hzero))

end Sys2Proof
end

section
/-! SUPPORT. The rules of the CRC commands (R145 to R147): the words, the outcomes, and the spec's worked values. -/

namespace Sys2Proof.Machine

/-- Settles O15: the effect is the same from every state, so an open call makes no difference. -/
theorem crcStartRule : Obligations.CrcStartRule := ⟨decode_crcStart_iff, exec_crcStart⟩

/-- R146, R204: a CRC_BYTE word with a bit of ARG[31:8] set is answered IllegalCommand. -/
theorem execWord_crcByte_illegal {w : CmdWord} (hopc : opcField w = 0x02#8) (harg : w.extractLsb' 8 24 ≠ 0#24)
    (s : State) : execWord w s = .next { s with response := some ⟨0x05#8, 0x00000000#32⟩ } := by
  obtain ⟨why, hwhy⟩ :=
    (exists_decode_illegal_iff_not_wordLegal w).mpr (wordLegal_eq_false_of_crcByte_arg hopc harg)
  exact execWord_illegal hwhy s

/-- Settles O16: the two outcomes of the gate, and R63's condition on ARG for the illegal words. -/
theorem crcByteRule : Obligations.CrcByteRule := by
  refine ⟨decode_crcByte_iff, fun b _ h => exec_crcByte_of_open h b, fun _ _ h => exec_of_closed rfl h,
    fun _ s hopc harg => execWord_crcByte_illegal hopc harg s, ?zeroByte, ?letterI⟩
  case zeroByte => decide
  case letterI => decide

theorem exec_crcFinal_again {s t : State} (h : exec .crcFinal s = .next t) :
    exec .crcFinal t = .next { t with response := some ⟨0x04#8, 0x00000000#32⟩ } :=
  exec_of_closed rfl (exec_crcFinal_crcOpen h)

/-- Settles O17: the two outcomes of the gate; the empty call and the call over IEND return their checksums. -/
theorem crcFinalRule : Obligations.CrcFinalRule := by
  have hiend : crc32 (ascii "IEND") = 0xAE426082#32 := by decide +kernel
  exact ⟨decode_crcFinal_iff, fun _ h => exec_crcFinal_of_open h, fun _ h => exec_of_closed rfl h,
    fun s => crc32_nil ▸ foldWords_callWords [] s, fun _ _ h => exec_crcFinal_again h,
    fun s => hiend ▸ foldWords_callWords (ascii "IEND") s⟩

end Sys2Proof.Machine
end

section
/-! SUPPORT. Which error a command raises (60 R202 to R206, in the order of R210), and what a word does with one and
with none (R200, R201). -/

namespace Sys2Proof.Machine

/-- The error of a command, the first of R210's conditions that holds; none if it is accepted. -/
def commandError (i : Instr) (s : State) : Option ErrorKind :=
  if i.isTypeReader && s.typeReg.isNone then some .noType
  else if i.needsOpenCall && !s.crcOpen then some .crcNotOpen
  else if i.badLength then some .invalidLength
  else if i.badCharacter then some .invalidCharacter
  else none

/-- The error of a word: decode runs before anything else (R210). -/
def wordError (w : CmdWord) (s : State) : Option ErrorKind :=
  match decode w with
  | .illegal _ => some .illegalCommand
  | .command i => commandError i s

/-- STATUS of a command with the given error or with none (R201). -/
def statusOf (error : Option ErrorKind) : Byte := error.elim statusOk errorCode

theorem conditions_of_commandError_eq_none {i : Instr} {s : State} (h : commandError i s = none) :
    (i.isTypeReader = true → ∃ w, s.typeReg = some w) ∧ (i.needsOpenCall = true → s.crcOpen = true) ∧
      i.badLength = false ∧ i.badCharacter = false := by
  unfold commandError at h
  split_ifs at h with htype hopen hlen hchar
  exact ⟨fun hi => Option.ne_none_iff_exists'.mp (by simpa [hi] using htype), fun hi => by simpa [hi] using hopen,
    by simpa using hlen, by simpa using hchar⟩

theorem badCharacter_typeLoad (arg : Word) : (Instr.typeLoad arg).badCharacter = !allAlpha arg := by
  simp [Instr.badCharacter, allAlpha]

/-- R203: an accepted length is that of a four-byte string. -/
theorem exec_typeLoads_of_goodLength {len : Byte} {arg : Word} (h : (Instr.typeLoads len arg).badLength = false)
    (s : State) : exec (.typeLoads len arg) s = exec (.typeLoad arg) s := by
  obtain rfl : len = 4#8 := by simpa [Instr.badLength] using h
  exact exec_typeLoads_four arg s

theorem exec_of_badLength {i : Instr} (hi : i.badLength = true) (s : State) :
    exec i s = .next { s with response := some ⟨0x02#8, 0x00000000#32⟩ } := by
  cases i with
  | typeLoads len arg => exact exec_typeLoads_of_ne_four (by simpa [Instr.badLength] using hi) arg s
  | _ => cases hi

theorem exec_of_badCharacter {i : Instr} (hlen : i.badLength = false) (hi : i.badCharacter = true) (s : State) :
    exec i s = .next { s with response := some ⟨0x01#8, 0x00000000#32⟩ } := by
  have hload (arg : Word) (h : (Instr.typeLoad arg).badCharacter = true) :=
    exec_typeLoad_of_not_allAlpha (by simpa [badCharacter_typeLoad] using h) s
  cases i with
  | typeLoad arg => exact hload arg hi
  | typeLoads len arg => exact (exec_typeLoads_of_goodLength hlen s).trans (hload arg hi)
  | _ => cases hi

/-- R200: a command with an error reports it and writes nothing. -/
theorem exec_of_commandError_eq_some {i : Instr} {s : State} {e : ErrorKind} (h : commandError i s = some e) :
    exec i s = .next { s with response := some ⟨errorCode e, 0x00000000#32⟩ } := by
  unfold commandError at h
  split_ifs at h with htype hopen hlen hchar <;> cases h
  · simp only [Bool.and_eq_true, Option.isNone_iff_eq_none] at htype
    exact exec_typeReader_of_unloaded htype.1 htype.2
  · simp only [Bool.and_eq_true, Bool.not_eq_true'] at hopen
    exact exec_of_closed hopen.1 hopen.2
  · exact exec_of_badLength hlen s
  · exact exec_of_badCharacter (Bool.eq_false_of_not_eq_true hlen) hchar s

/-- The command is answered with STATUS = OK. -/
def Accepted (i : Instr) (s : State) : Prop :=
  ∃ t v, exec i s = .next t ∧ t.response = some ⟨statusOk, v⟩

theorem accepted_of_open {i : Instr} (hi : i.needsOpenCall = true) {s : State} (h : s.crcOpen = true) :
    Accepted i s := by
  cases i with
  | crcByte b => exact ⟨_, _, exec_crcByte_of_open h b, rfl⟩
  | crcFinal => exact ⟨_, _, exec_crcFinal_of_open h, rfl⟩
  | _ => cases hi

theorem accepted_of_loaded {i : Instr} (hi : i.isTypeReader = true) {s : State} {w : Word}
    (h : s.typeReg = some w) : Accepted i s := by
  cases i with
  | typeRead => exact ⟨_, _, exec_typeRead_of_loaded h, rfl⟩
  | typeEq arg => exact ⟨_, _, exec_typeEq_of_loaded h arg, rfl⟩
  | typeIsvalid => exact ⟨_, _, answer_readProperty_of_loaded h valid, rfl⟩
  | typeIscrit => exact ⟨_, _, answer_readProperty_of_loaded h crit, rfl⟩
  | typeIspub => exact ⟨_, _, answer_readProperty_of_loaded h pub, rfl⟩
  | typeIsrsv => exact ⟨_, _, answer_readProperty_of_loaded h rsvok, rfl⟩
  | typeIssafe => exact ⟨_, _, answer_readProperty_of_loaded h safe, rfl⟩
  | _ => cases hi

theorem accepted_typeLoad {arg : Word} (h : (Instr.typeLoad arg).badCharacter = false) (s : State) :
    Accepted (.typeLoad arg) s :=
  ⟨_, _, exec_typeLoad_of_allAlpha (by simpa [badCharacter_typeLoad] using h) s, rfl⟩

theorem accepted_of_commandError_eq_none {i : Instr} {s : State} (h : commandError i s = none) : Accepted i s := by
  obtain ⟨htype, hopen, hlen, hchar⟩ := conditions_of_commandError_eq_none h
  cases i with
  | crcStart => exact ⟨_, _, exec_crcStart s, rfl⟩
  | crcByte _ | crcFinal => exact accepted_of_open rfl (hopen rfl)
  | typeLoad arg => exact accepted_typeLoad hchar s
  | typeLoads len arg =>
    rw [Accepted, exec_typeLoads_of_goodLength hlen]
    exact accepted_typeLoad hchar s
  | _ =>
    obtain ⟨w, hw⟩ := htype rfl
    exact accepted_of_loaded rfl hw

/-- R200 for every word: one with an error reports it and writes nothing. -/
theorem execWord_of_wordError_eq_some {w : CmdWord} {s : State} {e : ErrorKind} (h : wordError w s = some e) :
    execWord w s = .next { s with response := some ⟨errorCode e, 0x00000000#32⟩ } := by
  cases hw : decode w with
  | illegal why =>
    obtain rfl : ErrorKind.illegalCommand = e := by simpa [wordError, hw] using h
    exact execWord_illegal hw s
  | command i =>
    rw [execWord_command hw]
    exact exec_of_commandError_eq_some (by simpa [wordError, hw] using h)

theorem execWord_of_wordError_eq_none {w : CmdWord} {s : State} (h : wordError w s = none) :
    ∃ t v, execWord w s = .next t ∧ t.response = some ⟨statusOk, v⟩ := by
  cases hw : decode w with
  | illegal why => simp [wordError, hw] at h
  | command i =>
    rw [execWord_command hw]
    exact accepted_of_commandError_eq_none (by simpa [wordError, hw] using h)

theorem execWord_status (w : CmdWord) (s : State) :
    ∃ t r, execWord w s = .next t ∧ t.response = some r ∧ r.status = statusOf (wordError w s) := by
  cases h : wordError w s with
  | none =>
    obtain ⟨t, v, ht, hr⟩ := execWord_of_wordError_eq_none h
    exact ⟨t, _, ht, hr, rfl⟩
  | some e => exact ⟨_, _, execWord_of_wordError_eq_some h, rfl, rfl⟩

theorem statusOf_commandError (i : Instr) (s : State) : statusOf (commandError i s) =
    if i.isTypeReader && s.typeReg.isNone then 0x03#8
    else if i.needsOpenCall && !s.crcOpen then 0x04#8
    else if i.badLength then 0x02#8
    else if i.badCharacter then 0x01#8
    else 0x00#8 := by
  simp only [commandError, apply_ite statusOf]
  rfl

/-- Settles O43: a word without an error is answered OK, and one with an error writes its response alone. -/
theorem errorsWriteNothing : Obligations.ErrorsWriteNothing := by
  intro w s t r hexec hr hstatus
  cases h : wordError w s with
  | none =>
    obtain ⟨t', v, ht, hv⟩ := execWord_of_wordError_eq_none h
    cases ht.symm.trans hexec
    cases hv.symm.trans hr
    exact absurd rfl hstatus
  | some e =>
    cases (execWord_of_wordError_eq_some h).symm.trans hexec
    cases hr
    exact ⟨rfl, rfl⟩

/-- Settles O44: the status is that of the word's error, whose definition follows R210's order. -/
theorem statusPriority : Obligations.StatusPriority := by
  intro w s
  obtain ⟨t, r, ht, hr, hstatus⟩ := execWord_status w s
  refine ⟨t, r, ht, hr, ?_⟩
  cases hw : decode w with
  | illegal why =>
    rw [wordError, hw] at hstatus
    exact hstatus
  | command i =>
    rw [wordError, hw] at hstatus
    exact hstatus.trans (statusOf_commandError i s)

end Sys2Proof.Machine
end

section
/-! SUPPORT. The encoder writes every legal word back (R60, R63, R65): what a row builds keeps the LEN and ARG bits
that its opcode allows, and in a legal word no other bit of the two fields is set. -/

namespace Sys2Proof

/-- CRC_BYTE's operand keeps the bits of ARG that its mask leaves free (R63, R67). -/
theorem setWidth_fieldB (w : CmdWord) : (fieldB w).setWidth 32 = argField w &&& 0x000000FF#32 := by
  have hmask : (0x000000FF#32 : Word) = (BitVec.allOnes 8).setWidth 32 := by decide
  ext i hi
  simp only [hmask, fieldB, argField, BitVec.getElem_setWidth, BitVec.getElem_and, BitVec.getLsbD_extractLsb',
    BitVec.getElem_extractLsb', BitVec.getLsbD_allOnes]
  exact Bool.and_comm _ _

/-- The word of what a row builds: the row's opcode, with the LEN and ARG bits that R60 and R63 allow under it. -/
theorem encode_build {r : OpcodeRow} (hr : r ∈ opcodeRows) (w : CmdWord) : encode (r.build w) =
    commandWord (opcField r.pattern) (lenField w &&& ~~~ lenZeroMask (opcField r.pattern))
      (argField w &&& ~~~ argZeroMask (opcField r.pattern)) := by
  have harg : argField w &&& 0xFFFFFFFF#32 = fieldArg w := BitVec.and_allOnes
  have hlen : lenField w &&& 0xFF#8 = fieldLen w := BitVec.and_allOnes
  revert r
  simp [opcodeRows, encode, opcField, lenZeroMask, argZeroMask, setWidth_fieldB, harg, hlen]

theorem and_not_eq_self {n : Nat} {v mask : BitVec n} (h : v &&& mask = 0#n) : v &&& ~~~ mask = v :=
  calc v &&& ~~~ mask = (v &&& mask) ||| (v &&& ~~~ mask) := by rw [h, BitVec.zero_or]
    _ = v &&& (mask ||| ~~~ mask) := BitVec.and_or_distrib_left.symm
    _ = v := by simp

/-- Settles O10: a command's word is legal and has the opcode of its row alone, whose fields are the operands. -/
theorem decodeOfEncode : Obligations.DecodeOfEncode := decode_encode

/-- Settles O11: the word's row gives its opcode, and legality that it has no other bits than that row's operands. -/
theorem encodeOfDecode : Obligations.EncodeOfDecode := by
  intro w i h
  obtain ⟨r, hr, hw, rfl⟩ := decode_command_iff_matches.mp h
  obtain ⟨hopc, hlegal⟩ := (matches_iff_wordLegal hr w).mp hw
  obtain ⟨-, hlen, hrsv, harg⟩ := (wordLegal_iff w).mp hlegal
  rw [lenAllowed_iff, hopc] at hlen
  rw [rsvAllowed_iff] at hrsv
  rw [argAllowed_iff, hopc] at harg
  rw [encode_build hr, and_not_eq_self hlen, and_not_eq_self harg, ← hopc, commandWord, ← hrsv, append_fields]

/-- Settles O14: sixteen closed words. -/
theorem encodingExamples : Obligations.EncodingExamples := by
  unfold Obligations.EncodingExamples
  decide

end Sys2Proof
end

section
/-! SUPPORT. Every command's next state in one form for each unit: what a command of one unit does is a function of that
unit's registers, and a TYPE reader writes its response alone (R21 to R24, R47). -/

namespace Sys2Proof.Machine

/-- The CRC counterpart of `exec_type_next`: a CRC command reads and writes CRC_REG and CRC_OPEN alone. -/
theorem exec_crc_next {i : Instr} (hi : i.isCrc = true) :
    ∃ f : Word → Bool → Word × Bool × Response, ∀ s : State, exec i s = .next { s with
      crcReg := (f s.crcReg s.crcOpen).1, crcOpen := (f s.crcReg s.crcOpen).2.1,
      response := some (f s.crcReg s.crcOpen).2.2 } := by
  cases i with
  | crcStart => exact ⟨fun _ _ => (0xFFFFFFFF#32, true, ⟨0x00#8, 0x00000000#32⟩), exec_crcStart⟩
  | crcByte b =>
    refine ⟨fun c o => cond o (crcStep c b, true, ⟨0x00#8, 0x00000000#32⟩) (c, false, ⟨0x04#8, 0x00000000#32⟩),
      fun ⟨⟨c, o, ty⟩, xs, r⟩ => ?_⟩
    cases o with
    | false => exact exec_of_closed rfl rfl
    | true => exact exec_crcByte_of_open rfl b
  | crcFinal =>
    refine ⟨fun c o => cond o (0xFFFFFFFF#32, false, ⟨0x00#8, c ^^^ 0xFFFFFFFF#32⟩) (c, false, ⟨0x04#8, 0x00000000#32⟩),
      fun ⟨⟨c, o, ty⟩, xs, r⟩ => ?_⟩
    cases o with
    | false => exact exec_of_closed rfl rfl
    | true => exact exec_crcFinal_of_open rfl
  | _ => cases hi

/-- R47: a TYPE reader answers from TYPE_REG and leaves every register as it is. -/
theorem exec_typeReader_next {i : Instr} (hi : i.isTypeReader = true) :
    ∃ f : Option Word → Response, ∀ s : State, exec i s = .next { s with response := some (f s.typeReg) } := by
  have hgate (g : Word → Word) : ∃ f : Option Word → Response, ∀ s : State,
      answer s (withType s.block fun w => respond (g w) s.block) = .next { s with response := some (f s.typeReg) } := by
    refine ⟨fun ty => ty.elim ⟨0x03#8, 0x00000000#32⟩ fun w => ⟨0x00#8, g w⟩, fun ⟨⟨c, o, ty⟩, xs, r⟩ => ?_⟩
    cases ty with
    | none => rfl
    | some w => rfl
  cases i with
  | typeRead => exact hgate id
  | typeEq arg => exact hgate fun w => boolResult (w == arg)
  | typeIsvalid => exact hgate fun w => boolResult (valid w)
  | typeIscrit => exact hgate fun w => boolResult (crit w)
  | typeIspub => exact hgate fun w => boolResult (pub w)
  | typeIsrsv => exact hgate fun w => boolResult (rsvok w)
  | typeIssafe => exact hgate fun w => boolResult (safe w)
  | _ => cases hi

/-- Settles O45: each unit's commands are functions of that unit's registers. -/
theorem unitsAreSeparate : Obligations.UnitsAreSeparate := by
  intro i s c o ty
  constructor
  · intro hi
    obtain ⟨f, hf⟩ := exec_type_next hi
    exact ⟨_, hf s, rfl, rfl, hf _⟩
  · intro hi
    obtain ⟨f, hf⟩ := exec_crc_next hi
    exact ⟨_, hf s, rfl, hf _⟩

/-- Settles O46: a reader's repetition reads the same TYPE_REG; CRC_FINAL's finds no open call and responds otherwise. -/
theorem readersAreIdempotent : Obligations.ReadersAreIdempotent := by
  refine ⟨fun i s hi => ?reader, fun s hs => ⟨_, exec_crcFinal_of_open hs, fun hagain => ?final⟩⟩
  case reader =>
    obtain ⟨f, hf⟩ := exec_typeReader_next hi
    exact ⟨_, hf s, rfl, hf _⟩
  case final => cases (exec_crcFinal_again (exec_crcFinal_of_open hs)).symm.trans hagain

end Sys2Proof.Machine
end
section
/-! SUPPORT. What a command word does depends on the block alone (R9, R209), and what one step does with the inbox
(R49, R61, R218, R230). -/

namespace Sys2Proof.Machine

/-- Settles O53: `execWord_answer` chooses the function of the record for each word. -/
theorem execIsFunctionOfRecord : Obligations.ExecIsFunctionOfRecord := by
  choose body hbody using execWord_answer
  exact ⟨⟨fun b w => body w b, hbody⟩, fun _ => rfl, rfl⟩

/-- Settles O9: equal blocks give one answer. -/
theorem sameRegistersSameOutcome : Obligations.SameRegistersSameOutcome := by
  intro w s s' hsame
  obtain ⟨body, hbody⟩ := execWord_answer w
  have hanswer : body s.block = body s'.block := congrArg body hsame
  exact ⟨_, _, hbody s, hbody s', congrArg Prod.fst hanswer, congrArg (fun a : Answer => some a.2) hanswer⟩

/-- Settles O7: a step idles, resets, or answers a word, which takes nothing more off the inbox. -/
theorem everyStepCompletes : Obligations.EveryStepCompletes := by
  intro s
  obtain ⟨hin, hstep⟩ | ⟨rest, hin, hstep⟩ | ⟨w, rest, hin, hstep⟩ := step_cases s
  · exact ⟨s, hstep, by simp [hin], by simp [hin]⟩
  · exact ⟨_, hstep, by simp [hin], by simp [hin]⟩
  · obtain ⟨body, hbody⟩ := execWord_answer w
    exact ⟨_, hstep.trans (hbody _), by simp [hin], fun _ _ _ => rfl⟩

/-- Settles O5, by the idle step. -/
theorem idleKeepsState : Obligations.IdleKeepsState := fun _ h => step_of_inbox_nil h

theorem decode_tableWord_of_decodeTableWord {nbits n : Nat} {i : Instr} (h : decodeTableWord nbits n = some i) :
    decode (tableWord nbits n) = .command i := by
  unfold decodeTableWord at h
  split at h
  · split at h
    · cases h
      assumption
    · cases h
  · cases h

/-- Settles O6: the oldest input is taken and decoded, wherever its word comes from. -/
theorem stepRunsDecodedCommand : Obligations.StepRunsDecodedCommand := by
  refine ⟨fun s w rest i hin hdecode => ?command, fun s n i h => ?fetched⟩
  case command => exact (step_of_inbox_cons hin).trans (execWord_command hdecode _)
  case fetched => exact execWord_command (decode_tableWord_of_decodeTableWord h) s

/-- Settles O3: a step that takes a reset leaves the reset registers. -/
theorem resetTransition : Obligations.ResetTransition :=
  ⟨⟨rfl, rfl, rfl⟩, fun _ _ hin => ⟨_, step_of_inbox_cons hin, rfl, rfl, rfl⟩⟩

end Sys2Proof.Machine
end

section
/-! SUPPORT. The writes of TYPE_REG (R23, R24), and the invariants of R25 and R201, which reset establishes and every
command word keeps. -/

namespace Sys2Proof.Machine

theorem typeReg_of_exec_typeLoad {arg : Word} {s t : State} (h : exec (.typeLoad arg) s = .next t) :
    t.typeReg = s.typeReg ∨
      (allAlpha arg = true ∧ t.typeReg = some arg ∧ t.response = some ⟨0x00#8, 0x00000000#32⟩) := by
  cases harg : allAlpha arg with
  | true =>
    cases (exec_typeLoad_of_allAlpha harg s).symm.trans h
    exact .inr ⟨rfl, rfl, rfl⟩
  | false =>
    cases (exec_typeLoad_of_not_allAlpha harg s).symm.trans h
    exact .inl rfl

/-- R21, R22: a CRC command does not write TYPE_REG. -/
theorem typeReg_of_exec_crc {i : Instr} (hi : i.isCrc = true) {s t : State} (h : exec i s = .next t) :
    t.typeReg = s.typeReg := by
  obtain ⟨f, hf⟩ := exec_crc_next hi
  cases (hf s).symm.trans h
  rfl

theorem typeReg_of_exec_typeReader {i : Instr} (hi : i.isTypeReader = true) {s t : State} (h : exec i s = .next t) :
    t.typeReg = s.typeReg := by
  obtain ⟨f, hf⟩ := exec_typeReader_next hi
  cases (hf s).symm.trans h
  rfl

/-- R23: a command that writes TYPE_REG is an accepted load, and writes its ARG. -/
theorem typeReg_of_exec {i : Instr} {s t : State} (h : exec i s = .next t) :
    t.typeReg = s.typeReg ∨ ∃ arg, (i = .typeLoad arg ∨ i = .typeLoads 4#8 arg) ∧ allAlpha arg = true ∧
      t.typeReg = some arg ∧ t.response = some ⟨0x00#8, 0x00000000#32⟩ := by
  cases i with
  | crcStart | crcByte _ | crcFinal => exact .inl (typeReg_of_exec_crc rfl h)
  | typeLoad arg => exact (typeReg_of_exec_typeLoad h).imp_right fun hload => ⟨arg, .inl rfl, hload⟩
  | typeLoads len arg =>
    by_cases hlen : len = 4#8
    · subst hlen
      exact (typeReg_of_exec_typeLoad h).imp_right fun hload => ⟨arg, .inr rfl, hload⟩
    · cases (exec_typeLoads_of_ne_four hlen arg s).symm.trans h
      exact .inl rfl
  | _ => exact .inl (typeReg_of_exec_typeReader rfl h)

/-- A property of the block's state that commands keep is kept by every word: an illegal one writes no register. -/
theorem execWord_keeps {P : Block → Prop} (hexec : ∀ i s t, P s.block → exec i s = .next t → P t.block) {w : CmdWord}
    {s t : State} (hs : P s.block) (h : execWord w s = .next t) : P t.block := by
  cases hw : decode w with
  | command i => exact hexec i s t hs ((execWord_command hw s).symm.trans h)
  | illegal why =>
    cases (execWord_illegal hw s).symm.trans h
    exact hs

/-- R24: no command clears TYPE_LOADED. -/
theorem isSome_typeReg_of_exec (i : Instr) (s t : State) (hs : s.typeReg.isSome = true) (h : exec i s = .next t) :
    t.typeReg.isSome = true := by
  obtain hsame | ⟨arg, -, -, hload, -⟩ := typeReg_of_exec h
  · rw [hsame, hs]
  · rw [hload, Option.isSome_some]

/-- Settles O40: the writes of TYPE_REG as above, and the kinds of step, of which a reset alone unloads a type. -/
theorem typeRegisterWrites : Obligations.TypeRegisterWrites := by
  refine ⟨fun i s t h => ?write, fun s t h hs ht => ?clear⟩
  case write =>
    refine (typeReg_of_exec h).imp_right fun ⟨arg, hi, harg, hwrite⟩ => ?_
    exact ⟨arg, hi, (allAlpha_iff arg).mp harg, hwrite⟩
  case clear =>
    have hne : s.typeReg.isSome ≠ t.typeReg.isSome := by simp [hs, ht]
    obtain ⟨-, hstep⟩ | ⟨rest, hin, -⟩ | ⟨w, rest, -, hstep⟩ := step_cases s
    · cases hstep.symm.trans h
      exact absurd rfl hne
    · exact ⟨rest, hin⟩
    · have hkept := execWord_keeps (P := fun b => b.typeReg.isSome = true) isSome_typeReg_of_exec
        (s := setInbox s rest) hs (hstep.symm.trans h)
      exact absurd (hs.trans hkept.symm) hne

/-- I-TYPE (R25): a load that writes TYPE_REG has checked the code. -/
theorem typeInv_of_exec (i : Instr) (s t : State) (hs : TypeInv s) (h : exec i s = .next t) : TypeInv t := by
  intro w hw
  obtain hsame | ⟨arg, -, harg, hload, -⟩ := typeReg_of_exec h
  · exact hs w (hsame.symm.trans hw)
  · cases hload.symm.trans hw
    exact harg

/-- R148: a TYPE command does not write the CRC registers. -/
theorem crcRegisters_of_exec_type {i : Instr} (hi : i.isCrc = false) {s t : State} (h : exec i s = .next t) :
    t.crcReg = s.crcReg ∧ t.crcOpen = s.crcOpen := by
  obtain ⟨f, hf⟩ := exec_type_next hi
  cases (hf s).symm.trans h
  exact ⟨rfl, rfl⟩

/-- I-CRC (R25): CRC_FINAL restores CRC_REG as it ends the call, and with no call open the gate keeps CRC_REG. -/
theorem crcInv_of_exec (i : Instr) (s t : State) (hs : CrcInv s) (h : exec i s = .next t) : CrcInv t := by
  intro hclosed
  cases i with
  | crcStart =>
    cases (exec_crcStart s).symm.trans h
    cases hclosed
  | crcByte b =>
    have hopen : s.crcOpen = false := (exec_crcByte_crcOpen h).symm.trans hclosed
    cases (exec_of_closed rfl hopen).symm.trans h
    exact hs hopen
  | crcFinal =>
    cases hopen : s.crcOpen with
    | true =>
      cases (exec_crcFinal_of_open hopen).symm.trans h
      rfl
    | false =>
      cases (exec_of_closed rfl hopen).symm.trans h
      exact hs hopen
  | _ =>
    obtain ⟨hreg, hopen⟩ := crcRegisters_of_exec_type rfl h
    exact hreg.trans (hs (hopen.symm.trans hclosed))

/-- R201: no code above 0x05 is returned. -/
theorem statusOf_le (error : Option ErrorKind) : statusOf error ≤ 0x05#8 := by
  obtain _ | e := error
  · decide
  · cases e <;> decide

theorem responseInv_of_execWord {w : CmdWord} {s t : State} (h : execWord w s = .next t) : ResponseInv t := by
  intro r hr
  obtain ⟨t', r', ht, hr', hstatus⟩ := execWord_status w s
  cases ht.symm.trans h
  cases hr'.symm.trans hr
  exact ⟨hstatus ▸ statusOf_le _, fun herror => (errorsWriteNothing w s t r h hr herror).1⟩

/-- R25 and R201 for every command word, from the rule that each has of commands. -/
theorem inv_of_execWord {w : CmdWord} {s t : State} (hs : Inv s) (h : execWord w s = .next t) : Inv t := by
  obtain ⟨htype, hcrc, -⟩ := hs
  exact ⟨execWord_keeps (P := fun b => ∀ w, b.typeReg = some w → allAlpha w = true) typeInv_of_exec htype h,
    execWord_keeps (P := fun b => b.crcOpen = false → b.crcReg = 0xFFFFFFFF#32) crcInv_of_exec hcrc h,
    responseInv_of_execWord h⟩

/-- At reset no type is held and no response shown, whatever inputs wait. -/
theorem inv_setInbox_reset (xs : List HostInput) : Inv (setInbox State.reset xs) :=
  ⟨(fun _ h => nomatch h), fun _ => rfl, fun _ h => nomatch h⟩

/-- Settles O1: the reset state is the one with no input. -/
theorem resetEstablishesInvariant : Obligations.ResetEstablishesInvariant := inv_setInbox_reset []

/-- Settles O2, by the kinds of step: idling changes nothing, a reset establishes the invariant, and a command word
keeps it. -/
theorem stepKeepsInvariant : Obligations.StepKeepsInvariant := by
  intro s t hs h
  obtain ⟨-, hstep⟩ | ⟨rest, -, hstep⟩ | ⟨w, rest, -, hstep⟩ := step_cases s
  · cases hstep.symm.trans h
    exact hs
  · cases hstep.symm.trans h
    exact inv_setInbox_reset rest
  · have hs' : Inv (setInbox s rest) := hs
    exact inv_of_execWord hs' (hstep.symm.trans h)

end Sys2Proof.Machine
end
section
/-! SUPPORT. Runs over a list of inputs: what each input keeps of the block, the whole list keeps, whatever inputs wait
behind it. -/

namespace Sys2Proof.Machine

/-- One more step at the end of a run. -/
theorem run_succ_of_run {k : Nat} {s t u : State} (h : Host.Core.run core k s = .next t) (hstep : step t = .next u) :
    Host.Core.run core (k + 1) s = .next u := by
  induction k generalizing s with
  | zero =>
    cases (run_zero s).symm.trans h
    exact run_succ_next hstep
  | succ k ih =>
    obtain ⟨v, hv, -⟩ := everyStepCompletes s
    exact (run_succ_next hv).trans (ih ((run_succ_next hv).symm.trans h))

/-- Every input is answered, and none reaches for the inputs behind it. -/
theorem takeInput_next (x : HostInput) (s : State) : ∃ t, takeInput x s = .next t ∧ t.inbox = s.inbox := by
  cases x with
  | reset => exact ⟨_, rfl, rfl⟩
  | command w =>
    obtain ⟨body, hbody⟩ := execWord_answer w
    exact ⟨_, hbody s, rfl⟩

/-- A property of the inputs still to come and the block, which the taking of each input keeps. -/
def KeptByInputs (P : List HostInput → Block → Prop) : Prop :=
  ∀ x xs s t, P (x :: xs) s.block → takeInput x s = .next t → P xs t.block

theorem KeptByInputs.run {P : List HostInput → Block → Prop} (hP : KeptByInputs P) {xs rest : List HostInput}
    {s : State} (hin : s.inbox = xs ++ rest) (hs : P xs s.block) :
    ∃ t, Host.Core.run core xs.length s = .next t ∧ t.inbox = rest ∧ P [] t.block := by
  induction xs generalizing s with
  | nil => exact ⟨s, rfl, hin, hs⟩
  | cons x xs ih =>
    obtain ⟨t, ht, htin⟩ := takeInput_next x (setInbox s (xs ++ rest))
    obtain ⟨u, hu, hrest, hPu⟩ := ih htin (hP x xs (setInbox s (xs ++ rest)) t hs ht)
    exact ⟨u, (run_succ_next ((step_of_inbox_cons hin).trans ht)).trans hu, hrest, hPu⟩

/-- The first of the inputs establishes the property, those between keep it, and the last is taken from a block that
has it. -/
theorem KeptByInputs.run_last {P : List HostInput → Block → Prop} (hP : KeptByInputs P) {first last : HostInput}
    {between rest : List HostInput} {s t : State} (hin : s.inbox = first :: (between ++ last :: rest))
    (hfirst : takeInput first (setInbox s (between ++ last :: rest)) = .next t) (ht : P between t.block) :
    ∃ u, u.inbox = rest ∧ P [] u.block ∧
      ∀ v, takeInput last u = .next v → Host.Core.run core (between.length + 2) s = .next v := by
  have htin : t.inbox = between ++ last :: rest := by
    obtain ⟨t', ht', htin⟩ := takeInput_next first (setInbox s (between ++ last :: rest))
    cases ht'.symm.trans hfirst
    exact htin
  obtain ⟨u, hu, huin, hPu⟩ := hP.run htin ht
  refine ⟨setInbox u rest, rfl, hPu, fun v hv => ?_⟩
  have hrun := run_succ_of_run hu ((step_of_inbox_cons huin).trans hv)
  exact (run_succ_next ((step_of_inbox_cons hin).trans hfirst)).trans hrun

end Sys2Proof.Machine
end

section
/-! SUPPORT. The two gates along a run: CRC_OPEN and TYPE_LOADED after each input (R22, R24), what a reset makes of
them (R231), and a host that does its duties (R233). -/

namespace Sys2Proof.Machine

/-- CRC_OPEN after a word, from what it decodes to (R22). -/
def openAfter (isOpen : Bool) : Decoded → Bool
  | .command .crcStart => true
  | .command .crcFinal => false
  | _ => isOpen

theorem crcOpen_of_execWord {w : CmdWord} {s t : State} (h : execWord w s = .next t) :
    t.crcOpen = openAfter s.crcOpen (decode w) := by
  obtain ⟨-, -, hexec, -⟩ := crcOpenFlag
  cases hw : decode w with
  | illegal why =>
    cases (execWord_illegal hw s).symm.trans h
    rfl
  | command i =>
    rw [hexec i s t ((execWord_command hw s).symm.trans h)]
    cases i <;> rfl

theorem openAfter_false_of_ne {d : Decoded} (h : d ≠ .command .crcStart) : openAfter false d = false := by
  unfold openAfter
  split
  · exact absurd rfl h
  · rfl
  · rfl

theorem isSome_typeReg_of_exec_typeLoad {arg : Word} {s t : State} (h : exec (.typeLoad arg) s = .next t) :
    t.typeReg.isSome = (s.typeReg.isSome || allAlpha arg) := by
  cases harg : allAlpha arg with
  | true =>
    cases (exec_typeLoad_of_allAlpha harg s).symm.trans h
    simp
  | false =>
    cases (exec_typeLoad_of_not_allAlpha harg s).symm.trans h
    simp

/-- TYPE_LOADED after a word (R24): it was set before, or the word is a load that the block accepts. -/
theorem isSome_typeReg_of_execWord {w : CmdWord} {s t : State} (h : execWord w s = .next t) :
    t.typeReg.isSome = (s.typeReg.isSome || loadsType (.command w)) := by
  cases hw : decode w with
  | illegal why =>
    cases (execWord_illegal hw s).symm.trans h
    simp [loadsType, hw]
  | command i =>
    have hexec := (execWord_command hw s).symm.trans h
    cases i with
    | crcStart | crcByte _ | crcFinal => simp [loadsType, hw, typeReg_of_exec_crc rfl hexec]
    | typeLoad arg => simpa [loadsType, hw] using isSome_typeReg_of_exec_typeLoad hexec
    | typeLoads len arg =>
      by_cases hlen : len = 4#8
      · subst hlen
        simpa [loadsType, hw] using isSome_typeReg_of_exec_typeLoad hexec
      · cases (exec_typeLoads_of_ne_four hlen arg s).symm.trans hexec
        simp [loadsType, hw, hlen]
    | _ => simp [loadsType, hw, typeReg_of_exec_typeReader rfl hexec]

/-- No call is open, CRC_REG is as reset left it, and no input to come starts a call. -/
def StaysClosed (xs : List HostInput) (b : Block) : Prop :=
  (∀ x ∈ xs, startsCall x = false) ∧ b.crcOpen = false ∧ b.crcReg = 0xFFFFFFFF#32

/-- No type is loaded, and no input to come loads one. -/
def StaysUnloaded (xs : List HostInput) (b : Block) : Prop :=
  (∀ x ∈ xs, loadsType x = false) ∧ b.typeReg = none

theorem keptByInputs_staysClosed : KeptByInputs StaysClosed := by
  rintro x xs s t ⟨hxs, hopen, hreg⟩ h
  obtain ⟨hx, hxs⟩ := List.forall_mem_cons.mp hxs
  refine ⟨hxs, ?_⟩
  cases x with
  | reset =>
    cases h
    exact ⟨rfl, rfl⟩
  | command w =>
    have hcrc : CrcInv t := execWord_keeps (P := fun b => b.crcOpen = false → b.crcReg = 0xFFFFFFFF#32) crcInv_of_exec
      (fun _ => hreg) h
    have hne : decode w ≠ .command .crcStart := by simpa [startsCall] using hx
    have hclosed : t.crcOpen = false := by rw [crcOpen_of_execWord h, hopen, openAfter_false_of_ne hne]
    exact ⟨hclosed, hcrc hclosed⟩

theorem keptByInputs_staysUnloaded : KeptByInputs StaysUnloaded := by
  rintro x xs s t ⟨hxs, hnone⟩ h
  obtain ⟨hx, hxs⟩ := List.forall_mem_cons.mp hxs
  refine ⟨hxs, ?_⟩
  cases x with
  | reset =>
    cases h
    rfl
  | command w => simpa [hx, hnone] using isSome_typeReg_of_execWord h

/-- Settles O4: after the reset both gates are closed, and the inputs between keep closed the one they do not open. -/
theorem resetEndsCall : Obligations.ResetEndsCall := by
  intro s between x rest hin
  refine ⟨fun hx hbetween => ?call, fun hx hbetween => ?type⟩
  case call =>
    obtain ⟨u, -, ⟨-, hopen, hreg⟩, hrun⟩ := keptByInputs_staysClosed.run_last hin rfl ⟨hbetween, rfl, rfl⟩
    exact ⟨_, hrun _ ((execWord_encode x u).trans (exec_of_closed hx hopen)), rfl, hreg, hopen⟩
  case type =>
    obtain ⟨u, -, ⟨-, hnone⟩, hrun⟩ := keptByInputs_staysUnloaded.run_last hin rfl ⟨hbetween, rfl⟩
    exact ⟨_, hrun _ ((execWord_encode x u).trans (exec_typeReader_of_unloaded hx hnone)), rfl, hnone⟩

/-- What `dutyStep` makes of the two gates is what the block makes of them. -/
theorem dutyStep_gates {x : HostInput} {s t : State} (h : takeInput x s = .next t) :
    (dutyStep s.crcOpen s.typeReg.isSome x).2 = (t.crcOpen, t.typeReg.isSome) := by
  cases x with
  | reset =>
    cases h
    rfl
  | command w =>
    rw [crcOpen_of_execWord h, isSome_typeReg_of_execWord h]
    cases hw : decode w with
    | illegal why => simp [dutyStep, loadsType, openAfter, hw]
    | command i => cases i <;> simp [dutyStep, loadsType, openAfter, hw]

/-- The duty at a command (R233): a type loaded for a reader, a call open for CRC_BYTE and CRC_FINAL. -/
theorem dutyStep_duty {w : CmdWord} {i : Instr} (hw : decode w = .command i) (isOpen loaded : Bool) :
    (dutyStep isOpen loaded (.command w)).1 = true ↔
      (i.isTypeReader = true → loaded = true) ∧ (i.needsOpenCall = true → isOpen = true) := by
  cases i <;> simp [dutyStep, hw, Instr.isTypeReader, Instr.needsOpenCall]

/-- A host that does the rest of its duties from the present gates on. -/
def Dutiful (xs : List HostInput) (b : Block) : Prop := doesDuties b.crcOpen b.typeReg.isSome xs = true

theorem dutiful_cons_iff {x : HostInput} {xs : List HostInput} {s t : State} (h : takeInput x s = .next t) :
    Dutiful (x :: xs) s.block ↔ (dutyStep s.crcOpen s.typeReg.isSome x).1 = true ∧ Dutiful xs t.block := by
  rw [Dutiful, doesDuties, Bool.and_eq_true, dutyStep_gates h]
  rfl

/-- R233: a word that does its duty passes both gates, so it raises neither NoType nor CrcNotOpen. -/
theorem statusOf_wordError_of_duty {w : CmdWord} {s : State}
    (h : (dutyStep s.crcOpen s.typeReg.isSome (.command w)).1 = true) :
    statusOf (wordError w s) ≠ 0x03#8 ∧ statusOf (wordError w s) ≠ 0x04#8 := by
  cases hw : decode w with
  | illegal why => simp [wordError, hw, statusOf, errorCode]
  | command i =>
    obtain ⟨htype, hopen⟩ := (dutyStep_duty hw _ _).mp h
    have hnotType : ¬ (i.isTypeReader && s.typeReg.isNone) = true := by
      simpa [← Option.isSome_iff_ne_none] using htype
    have hnotOpen : ¬ (i.needsOpenCall && !s.crcOpen) = true := by
      simpa using hopen
    simp only [wordError, hw, statusOf_commandError, if_neg hnotType, if_neg hnotOpen]
    split_ifs <;> decide

/-- One input of a dutiful host is answered neither NoType nor CrcNotOpen; a reset leaves no response. -/
theorem status_of_takeInput_of_duty {x : HostInput} {s t : State} {r : Response} (h : takeInput x s = .next t)
    (hduty : (dutyStep s.crcOpen s.typeReg.isSome x).1 = true) (hr : t.response = some r) :
    r.status ≠ 0x03#8 ∧ r.status ≠ 0x04#8 := by
  cases x with
  | reset =>
    cases h
    cases hr
  | command w =>
    obtain ⟨t', r', ht, hr', hstatus⟩ := execWord_status w s
    cases ht.symm.trans h
    cases hr'.symm.trans hr
    exact hstatus ▸ statusOf_wordError_of_duty hduty

/-- Settles O47: the run up to the k-th input leaves a host that still does its duties, the k-th among them. -/
theorem dutifulHostNeverTurnedAway : Obligations.DutifulHostNeverTurnedAway := by
  intro s xs rest k t r hin hduties hpos hk hrun hr
  obtain ⟨j, rfl⟩ : ∃ j, k = j + 1 := ⟨k - 1, by omega⟩
  have hsplit : xs.take j ++ xs[j] :: xs.drop (j + 1) = xs := by
    rw [← List.drop_eq_getElem_cons hk, List.take_append_drop]
  have hlen : (xs.take j).length = j := by simp; omega
  have hkept : KeptByInputs fun ys b => Dutiful (ys ++ xs[j] :: xs.drop (j + 1)) b :=
    fun _ _ _ _ hduty h => ((dutiful_cons_iff h).mp hduty).2
  have hin' : s.inbox = xs.take j ++ (xs[j] :: xs.drop (j + 1) ++ rest) := by
    rw [hin, ← List.append_assoc, hsplit]
  obtain ⟨u, hu, huin, hduty⟩ := hkept.run hin' (by rw [hsplit]; exact hduties)
  obtain ⟨v, hv, -⟩ := takeInput_next xs[j] (setInbox u (xs.drop (j + 1) ++ rest))
  have hlast := run_succ_of_run hu ((step_of_inbox_cons huin).trans hv)
  rw [hlen] at hlast
  cases hlast.symm.trans hrun
  exact status_of_takeInput_of_duty hv ((dutiful_cons_iff hv).mp hduty).1 hr

end Sys2Proof.Machine
end

section
/-! SUPPORT. A call with other commands between its own (R148, R149): the bytes still to be fed and CRC_REG decide the
checksum, and no input that R148 allows inside the call changes it. -/

namespace Sys2Proof.Machine

/-- Inside a call: R148 allows the inputs to come, and with their bytes CRC_REG becomes `final`. -/
def InCall (final : Word) (xs : List HostInput) (b : Block) : Prop :=
  (∀ x ∈ xs, insideCall x = true) ∧ b.crcOpen = true ∧ crcFold b.crcReg (fedBytes xs) = final

theorem fedBytes_of_type {w : CmdWord} {i : Instr} (hw : decode w = .command i) (hi : i.isCrc = false)
    (xs : List HostInput) : fedBytes (.command w :: xs) = fedBytes xs := by
  cases i with
  | crcStart | crcByte _ | crcFinal => cases hi
  | _ => simp [fedBytes, hw]

theorem keptByInputs_inCall (final : Word) : KeptByInputs (InCall final) := by
  rintro x xs s t ⟨hxs, hopen, hfold⟩ h
  obtain ⟨hx, hxs⟩ := List.forall_mem_cons.mp hxs
  refine ⟨hxs, ?_⟩
  cases x with
  | reset => cases hx
  | command w =>
    cases hw : decode w with
    | illegal why =>
      cases (execWord_illegal hw s).symm.trans h
      rw [fedBytes, hw] at hfold
      exact ⟨hopen, hfold⟩
    | command i =>
      have hexec := (execWord_command hw s).symm.trans h
      cases i with
      | crcStart | crcFinal => simp [insideCall, hw] at hx
      | crcByte b =>
        cases (exec_crcByte_of_open hopen b).symm.trans hexec
        rw [fedBytes, hw] at hfold
        exact ⟨hopen, hfold⟩
      | _ =>
        obtain ⟨hreg, hflag⟩ := crcRegisters_of_exec_type rfl hexec
        rw [fedBytes_of_type hw rfl, ← hreg] at hfold
        exact ⟨hflag.trans hopen, hfold⟩

/-- Settles O23: CRC_START enters the call, the inputs between keep what CRC_REG will be, and CRC_FINAL reads it. -/
theorem callComputesCrc32 : Obligations.CallComputesCrc32 := by
  intro s body rest hbody hin
  obtain ⟨u, huin, ⟨-, hopen, hreg⟩, hrun⟩ := (keptByInputs_inCall (crcFold crcInit (fedBytes body))).run_last hin
    ((execWord_encode .crcStart _).trans (exec_crcStart _)) ⟨hbody, rfl, rfl⟩
  have hreg : u.crcReg = crcFold crcInit (fedBytes body) := hreg
  refine ⟨_, hrun _ ((execWord_encode .crcFinal u).trans (exec_crcFinal_of_open hopen)), ?_, rfl, rfl, huin⟩
  rw [hreg]
  rfl

/-- Settles O24: both responses are the checksum of the same bytes. -/
theorem callsAreIndependent : Obligations.CallsAreIndependent := by
  refine ⟨fun s s' => ⟨_, _, exec_crcStart s, exec_crcStart s', rfl, rfl⟩,
    fun s s' body body' rest rest' hbody hbody' hfed hin hin' => ?calls⟩
  case calls =>
    obtain ⟨t, ht, hr, -⟩ := callComputesCrc32 s body rest hbody hin
    obtain ⟨t', ht', hr', -⟩ := callComputesCrc32 s' body' rest' hbody' hin'
    exact ⟨t, t', ht, ht', by rw [hr, hr', hfed]⟩

end Sys2Proof.Machine
end
section
/-! SUPPORT. The checksum's laws (R142, R150 to R152): a byte step is linear over GF(2) in the register and the byte
together, loses nothing, and moves the register's upper bits down unchanged. -/

namespace Sys2Proof.Machine

/-- Settles O20: closed values; the reversal and the check value are computed by the kernel. -/
theorem crcParameters : Obligations.CrcParameters := by
  refine ⟨rfl, by decide, rfl, ?reversal, rfl, rfl, ?checkValue⟩
  case reversal => decide +kernel
  case checkValue => decide +kernel

/-- A register that is zero in its low n bits meets no set bit in n shifts. -/
theorem crcShiftN_of_low_zero {n : Nat} {c : Word} (h : ∀ i < n, c.getLsbD i = false) : crcShiftN n c = c >>> n := by
  induction n generalizing c with
  | zero => simp [crcShiftN]
  | succ n ih =>
    have hshift : crcShift c = c >>> 1 := by rw [crcShift, h 0 n.succ_pos, if_neg Bool.false_ne_true]
    have hlow : ∀ i < n, (c >>> 1).getLsbD i = false := fun i hi => by
      simpa [Nat.add_comm] using h (i + 1) (by omega)
    rw [crcShiftN, hshift, ih hlow, Nat.add_comm, BitVec.shiftRight_add]

theorem zextByte_extract_xor (v : Word) : zextByte (v.extractLsb' 0 8) ^^^ (v >>> 8) <<< 8 = v := by
  ext i hi
  by_cases h : i < 8
  · simp [zextByte, h, BitVec.getLsbD_eq_getElem hi]
  · have hi8 : 8 + (i - 8) = i := by omega
    simp [zextByte, h, hi8, BitVec.getLsbD_eq_getElem hi]

theorem shiftLeft_ushiftRight_of_ushiftRight (v : Word) : (v >>> 8) <<< 8 >>> 8 = v >>> 8 := by
  ext i hi
  simp
  grind

/-- Eight shifts where `v` holds the next byte and bits above it: the byte step takes the byte, and the bits above
move down to where the next byte is taken from. -/
theorem crcShiftN_eight_xor (c v : Word) : crcShiftN 8 (c ^^^ v) = crcStep c (v.extractLsb' 0 8) ^^^ (v >>> 8) := by
  have hlow : ∀ i < 8, ((v >>> 8) <<< 8).getLsbD i = false := fun i hi => by simp [hi]
  calc crcShiftN 8 (c ^^^ v)
      = crcShiftN 8 ((c ^^^ zextByte (v.extractLsb' 0 8)) ^^^ (v >>> 8) <<< 8) := by
        rw [BitVec.xor_assoc, zextByte_extract_xor]
    _ = crcStep c (v.extractLsb' 0 8) ^^^ (v >>> 8) := by
        rw [crcShiftN_xor, crcShiftN_of_low_zero hlow, shiftLeft_ushiftRight_of_ushiftRight, crcStep]

/-- Settles O21: the table takes the register's low byte, and the other bits move down. -/
theorem crcTableForm : Obligations.CrcTableForm := by
  refine ⟨fun _ => rfl, fun c b => ?table, by decide, by decide +kernel, by decide +kernel, by decide +kernel⟩
  case table =>
    have hsplit := crcShiftN_eight_xor 0x00000000#32 (c ^^^ zextByte b)
    rw [BitVec.zero_xor, BitVec.ushiftRight_xor_distrib, zextByte_ushiftRight_eight, BitVec.xor_zero] at hsplit
    exact hsplit

theorem zextByte_xor (a b : Byte) : zextByte (a ^^^ b) = zextByte a ^^^ zextByte b := BitVec.setWidth_xor

theorem zextByte_injective {a b : Byte} (h : zextByte a = zextByte b) : a = b := by
  have htrunc (x : Byte) : (zextByte x).setWidth 8 = x := by simp [zextByte]
  rw [← htrunc a, h, htrunc]

theorem crcStep_xor (c d : Word) (a b : Byte) : crcStep (c ^^^ d) (a ^^^ b) = crcStep c a ^^^ crcStep d b := by
  rw [crcStep, crcStep, crcStep, ← crcShiftN_xor, zextByte_xor]
  congr 1
  ac_rfl

theorem crcStep_injective_left {c d : Word} {b : Byte} (h : crcStep c b = crcStep d b) : c = d :=
  (BitVec.xor_left_inj _).mp (crcShiftN_injective 8 h)

theorem crcStep_injective_right {c : Word} {a b : Byte} (h : crcStep c a = crcStep c b) : a = b :=
  zextByte_injective ((BitVec.xor_right_inj _).mp (crcShiftN_injective 8 h))

theorem crcFold_injective (m : List Byte) {c d : Word} (h : crcFold c m = crcFold d m) : c = d := by
  induction m generalizing c d with
  | nil => exact h
  | cons b m ih => exact crcStep_injective_left (ih h)

/-- The fold is linear in the register and the message together. -/
theorem crcFold_zipWith_xor {a e : List Byte} (h : a.length = e.length) (c d : Word) :
    crcFold (c ^^^ d) (List.zipWith (fun x y => x ^^^ y) a e) = crcFold c a ^^^ crcFold d e := by
  induction a generalizing e c d with
  | nil =>
    obtain rfl : e = [] := List.length_eq_zero_iff.mp h.symm
    rfl
  | cons x a ih =>
    cases e with
    | nil => cases h
    | cons y e =>
      rw [List.zipWith_cons_cons, crcFold_cons, crcStep_xor, ih (Nat.succ.inj h), crcFold_cons, crcFold_cons]

/-- Settles O25: E's register starts at zero, so that it adds nothing to the initial value. -/
theorem crc32IsAffine : Obligations.Crc32IsAffine := by
  intro a e h
  have hfold := crcFold_zipWith_xor h crcInit 0x00000000#32
  rw [BitVec.xor_zero] at hfold
  rw [crc32, hfold, crc32, crc0]
  ac_rfl

/-- Settles O26: the register after the changed byte differs, and no later byte makes it equal again. -/
theorem oneByteChangeDetected : Obligations.OneByteChangeDetected := by
  intro before after b d hd h
  have hfold := (BitVec.xor_left_inj _).mp h
  rw [crcFold_append, crcFold_append] at hfold
  have hbyte : b ^^^ d = b ^^^ 0x00#8 := by
    rw [BitVec.xor_zero]
    exact crcStep_injective_right (crcFold_injective after hfold)
  exact hd ((BitVec.xor_right_inj b).mp hbyte)

theorem extract_ushiftRight (v : Word) (k : Nat) : (v >>> k).extractLsb' 0 8 = v.extractLsb' k 8 := by
  ext i hi
  simp

/-- Four bytes taken from a word, lowest first, are 32 shifts of the register with the word in it. -/
theorem crcFold_wordBytesLe (c v : Word) : crcFold c (wordBytesLe v) = crcShiftN 32 (c ^^^ v) := by
  have hshifts (x : Word) : crcShiftN 32 x = crcShiftN 8 (crcShiftN 8 (crcShiftN 8 (crcShiftN 8 x))) := rfl
  have hend : v >>> (8 + 8 + 8 + 8) = 0x00000000#32 := by
    ext i hi
    simp
  simp only [hshifts, crcShiftN_eight_xor, ← BitVec.shiftRight_add, hend, BitVec.xor_zero, extract_ushiftRight]
  rfl

/-- Settles O27: the appended bytes cancel the register but for the final exclusive-or. -/
theorem residueLittleEndian : Obligations.ResidueLittleEndian := by
  intro m
  have hcancel : crcFold crcInit m ^^^ crc32 m = crcXorOut := by
    rw [crc32, ← BitVec.xor_assoc, BitVec.xor_self, BitVec.zero_xor]
  rw [crc32, crcFold_append, crcFold_wordBytesLe, hcancel]
  decide +kernel

end Sys2Proof.Machine
end

section
/-! SUPPORT. The chunk on the wire (20 R41, R42, R44) and the host's comparison of checksums (60 R207). -/

namespace Sys2Proof.Machine

@[simp] theorem length_wordBytes (w : Word) : (wordBytes w).length = 4 := rfl

@[simp] theorem length_chunkMessage (type : Word) (data : List Byte) :
    (chunkMessage type data).length = 4 + data.length := by
  simp [chunkMessage]

/-- Settles O51: a chunk's three parts have the lengths 4, 4 + n and 4. -/
theorem chunkLayout : Obligations.ChunkLayout := by
  refine ⟨fun _ => rfl, typeWord_typeByte, by decide, fun _ _ => rfl, length_chunkMessage, fun type data h => ?chunk⟩
  case chunk =>
    have hbytes : serializeChunk type data = some (wordBytes (BitVec.ofNat 32 data.length) ++
        chunkMessage type data ++ wordBytes (crc32 (chunkMessage type data))) := if_pos h
    have hlen := length_wordBytes (BitVec.ofNat 32 data.length)
    refine ⟨_, hbytes, ?length, ?dataLength, ?message, ?checksum⟩
    case length =>
      simp only [List.length_append, length_wordBytes, length_chunkMessage]
      omega
    case dataLength => rw [List.append_assoc, List.take_left' hlen]
    case message =>
      rw [List.append_assoc, List.drop_left' hlen, List.take_left' (length_chunkMessage type data)]
    case checksum =>
      refine List.drop_left' ?_
      simp only [List.length_append, length_wordBytes, length_chunkMessage]
      omega

/-- Settles O52: the call's RESULT is the checksum of what it was fed, and one changed byte changes that. -/
theorem corruptedChunkDetected : Obligations.CorruptedChunkDetected := by
  refine ⟨fun s type data => ?accepted, fun s type before after b d hd => ?corrupted⟩
  case accepted =>
    obtain ⟨t, ht, hr⟩ := foldWords_callWords (chunkMessage type data) s
    exact ⟨t, ht, _, hr, by simp [checksumMismatch]⟩
  case corrupted =>
    obtain ⟨t, ht, hr⟩ := foldWords_callWords (chunkMessage type (before ++ (b ^^^ d) :: after)) s
    have hne := oneByteChangeDetected (wordBytes type ++ before) after b d hd
    exact ⟨t, ht, _, hr, by simpa [checksumMismatch, chunkMessage] using hne⟩

end Sys2Proof.Machine
end
section
/-! SUPPORT. The register as a polynomial over the field of two elements (R144): one shift that takes a message bit
multiplies by x, adds the bit at x^32 and, if a bit falls out, adds G(x). -/

namespace Sys2Proof.Machine

open Polynomial (X)

/-- The register's polynomial: bit 31 - i is the coefficient of x^i. -/
noncomputable def regPoly (c : Word) : Polynomial (ZMod 2) :=
  ∑ i ∈ Finset.range 32, if c.getLsbD (31 - i) then X ^ i else 0

/-- A polynomial present or absent, by one bit. -/
theorem ite_xor_poly (a b : Bool) (p : Polynomial (ZMod 2)) :
    (if (a ^^ b) = true then p else 0) = (if a = true then p else 0) + (if b = true then p else 0) := by
  cases a <;> cases b <;> simp [CharTwo.add_self_eq_zero]

theorem regPoly_xor (c d : Word) : regPoly (c ^^^ d) = regPoly c + regPoly d := by
  simp only [regPoly, BitVec.getLsbD_xor, ite_xor_poly, Finset.sum_add_distrib]

theorem coeff_regPoly (c : Word) {i : Nat} (hi : i < 32) : (regPoly c).coeff i = 1 ↔ c.getLsbD (31 - i) = true := by
  have hterm (k : Nat) : (if c.getLsbD (31 - k) = true then (X ^ k : Polynomial (ZMod 2)) else 0).coeff i =
      if i = k then if c.getLsbD (31 - k) = true then 1 else 0 else 0 := by
    split_ifs <;> simp_all
  have hcoeff : (regPoly c).coeff i = if c.getLsbD (31 - i) = true then 1 else 0 := by
    simp [regPoly, hterm, hi]
  simp [hcoeff]

theorem degree_regPoly_lt (c : Word) : (regPoly c).degree < 32 := by
  refine (Polynomial.degree_sum_le _ _).trans_lt ((Finset.sup_lt_iff (WithBot.bot_lt_coe 32)).mpr fun i hi => ?_)
  split_ifs
  · rw [Polynomial.degree_X_pow]
    exact_mod_cast Finset.mem_range.mp hi
  · rw [Polynomial.degree_zero]
    exact WithBot.bot_lt_coe 32

/-- Multiplying by x moves every bit one place down, and bit 0 to x^32. -/
theorem X_mul_regPoly (c : Word) :
    X * regPoly c = regPoly (c >>> 1) + if c.getLsbD 0 = true then X ^ 32 else 0 := by
  have hlow : ∀ i ∈ Finset.range 32, (if (c >>> 1).getLsbD (31 - i) = true then (X ^ i : Polynomial (ZMod 2)) else 0) =
      if c.getLsbD (32 - i) = true then X ^ i else 0 := fun i hi => by
    have hi32 : 1 + (31 - i) = 32 - i := by
      have := Finset.mem_range.mp hi
      omega
    rw [BitVec.getLsbD_ushiftRight, hi32]
  calc X * regPoly c = ∑ i ∈ Finset.range 33, if c.getLsbD (32 - i) = true then X ^ i else 0 := by
        rw [Finset.sum_range_succ', regPoly, Finset.mul_sum]
        simp [pow_succ']
    _ = regPoly (c >>> 1) + if c.getLsbD 0 = true then X ^ 32 else 0 := by
        rw [Finset.sum_range_succ, regPoly, Finset.sum_congr rfl hlow]

/-- R140, R144: the reflected constant is G(x) without x^32. -/
theorem regPoly_crcPolyReflected : regPoly crcPolyReflected + X ^ 32 = generatorPoly := by
  simp [regPoly, crcPolyReflected, generatorPoly, Finset.sum_range_succ]
  ring

theorem regPoly_crcShiftBit (c : Word) (bit : Bool) : regPoly (crcShiftBit c bit) =
    X * regPoly c + (if bit = true then X ^ 32 else 0) + if (c.getLsbD 0 ^^ bit) = true then generatorPoly else 0 := by
  have hzero : regPoly 0x00000000#32 = 0 := by simp [regPoly]
  have hdivisor : regPoly (if (c.getLsbD 0 ^^ bit) = true then crcPolyReflected else 0x00000000#32) =
      (if (c.getLsbD 0 ^^ bit) = true then X ^ 32 else 0) +
        if (c.getLsbD 0 ^^ bit) = true then generatorPoly else 0 := by
    split_ifs
    · rw [← regPoly_crcPolyReflected, add_left_comm, CharTwo.add_self_eq_zero, add_zero]
    · rw [hzero, add_zero]
  rw [crcShiftBit, regPoly_xor, hdivisor, ite_xor_poly, X_mul_regPoly]
  ring

theorem monic_generatorPoly : generatorPoly.Monic := by
  unfold generatorPoly
  monicity!

theorem degree_generatorPoly : generatorPoly.degree = 32 := by
  unfold generatorPoly
  compute_degree!

/-- The polynomial of a stream's first n bits, the last of them at x^0. -/
noncomputable def streamPoly (bits : Nat → Bool) (n : Nat) : Polynomial (ZMod 2) :=
  ∑ t ∈ Finset.range n, if bits t = true then X ^ (n - 1 - t) else 0

theorem streamPoly_succ (bits : Nat → Bool) (n : Nat) :
    streamPoly bits (n + 1) = X * streamPoly bits n + if bits n = true then 1 else 0 := by
  have hterm : ∀ t ∈ Finset.range n, (if bits t = true then (X ^ (n + 1 - 1 - t) : Polynomial (ZMod 2)) else 0) =
      X * if bits t = true then X ^ (n - 1 - t) else 0 := fun t ht => by
    have hexp : n + 1 - 1 - t = n - 1 - t + 1 := by
      have := Finset.mem_range.mp ht
      omega
    rw [mul_ite, mul_zero, hexp, pow_succ']
  rw [streamPoly, Finset.sum_range_succ, Finset.sum_congr rfl hterm, ← Finset.mul_sum, streamPoly]
  simp

/-- The register after n bits is the stream's polynomial at x^32, with the initial register moved up, modulo G(x). -/
theorem generatorPoly_dvd_sub_regPoly (bits : Nat → Bool) (c : Word) (n : Nat) :
    generatorPoly ∣ (X ^ 32 * streamPoly bits n + X ^ n * regPoly c) -
      regPoly ((List.range n).foldl (fun c t => crcShiftBit c (bits t)) c) := by
  induction n with
  | zero => simp [streamPoly]
  | succ n ih =>
    rw [List.range_succ, List.foldl_append, List.foldl_cons, List.foldl_nil, regPoly_crcShiftBit, streamPoly_succ]
    have hfall (out : Bool) : generatorPoly ∣ if out = true then generatorPoly else 0 := by cases out <;> simp
    generalize (List.range n).foldl (fun c t => crcShiftBit c (bits t)) c = r at ih ⊢
    convert dvd_sub (ih.mul_left X) (hfall (r.getLsbD 0 ^^ bits n)) using 1
    split_ifs <;> ring

theorem messageBit_cons_of_lt (b : Byte) (m : List Byte) {j : Nat} (hj : j < 8) :
    messageBit (b :: m) j = b.getLsbD j := by
  simp [messageBit, Nat.div_eq_of_lt hj, Nat.mod_eq_of_lt hj]

theorem messageBit_cons_add (b : Byte) (m : List Byte) (t : Nat) : messageBit (b :: m) (8 + t) = messageBit m t := by
  simp [messageBit, Nat.add_comm 8 t, Nat.add_div_right]

/-- The loop of R143 takes the message's bits in transmission order. -/
theorem crcFold_eq_foldl_messageBit (c : Word) (m : List Byte) :
    crcFold c m = (List.range (8 * m.length)).foldl (fun c t => crcShiftBit c (messageBit m t)) c := by
  induction m generalizing c with
  | nil => rfl
  | cons b m ih =>
    have hlen : 8 * (b :: m).length = 8 + 8 * m.length := by
      rw [List.length_cons]
      omega
    have hbyte : (List.range 8).foldl (fun c t => crcShiftBit c (messageBit (b :: m) t)) c = crcStep c b := by
      rw [crcStep_eq_foldl_crcShiftBit]
      exact List.foldl_ext _ _ _ fun c j hj => by rw [messageBit_cons_of_lt b m (List.mem_range.mp hj)]
    rw [hlen, List.range_add, List.foldl_append, hbyte, List.foldl_map]
    simp only [messageBit_cons_add]
    exact ih (crcStep c b)

theorem regPoly_crcInit : regPoly crcInit = initPoly := by
  have hones (i : Nat) : crcInit.getLsbD (31 - i) = true := by
    have hlt : 31 - i < 32 := by omega
    rw [show crcInit = BitVec.allOnes 32 from rfl, BitVec.getLsbD_allOnes, decide_eq_true hlt]
  simp [regPoly, initPoly, hones]

theorem remainderPoly_eq_regPoly (m : List Byte) : remainderPoly m = regPoly (crcFold crcInit m) := by
  have hdvd := generatorPoly_dvd_sub_regPoly (messageBit m) crcInit (8 * m.length)
  rw [← crcFold_eq_foldl_messageBit, regPoly_crcInit] at hdvd
  have hlt : (regPoly (crcFold crcInit m)).degree < generatorPoly.degree := by
    rw [degree_generatorPoly]
    exact degree_regPoly_lt _
  calc remainderPoly m = regPoly (crcFold crcInit m) %ₘ generatorPoly :=
        Polynomial.modByMonic_eq_of_dvd_sub monic_generatorPoly hdvd
    _ = regPoly (crcFold crcInit m) := (Polynomial.modByMonic_eq_self_iff monic_generatorPoly).mpr hlt

/-- Settles O28: the register before the final exclusive-or is the remainder, coefficient by coefficient. -/
theorem crc32IsPolynomialRemainder : Obligations.Crc32IsPolynomialRemainder := by
  intro m i hi
  have hreg : crc32 m ^^^ 0xFFFFFFFF#32 = crcFold crcInit m := by simp [crc32, crcXorOut]
  rw [hreg, remainderPoly_eq_regPoly, coeff_regPoly _ hi]

end Sys2Proof.Machine
end
section
/-! SUPPORT. The words of TYPE_ISPUB and TYPE_ISSAFE (R66). -/

namespace Sys2Proof

theorem decode_typeIspub_iff (w : CmdWord) : decode w = .command .typeIspub ↔
    w &&& 0xFFFFFFFFFFFFFFFF#64 = 0x2200000000000000#64 := by
  simp [decode_command_iff_matches, opcodeRows]

theorem decode_typeIssafe_iff (w : CmdWord) : decode w = .command .typeIssafe ↔
    w &&& 0xFFFFFFFFFFFFFFFF#64 = 0x2400000000000000#64 := by
  simp [decode_command_iff_matches, opcodeRows]

end Sys2Proof
end

section
/-! SUPPORT. The properties of a code (R101, R108, R110) as the cases of its letters (R111, R112). -/

namespace Sys2Proof.Machine

/-- Bit 5 of byte 1 is TYPE_REG[21] (R101, R108). -/
theorem pub_iff (w : Word) : pub w = true ↔ w.getLsbD 21 = false := by
  simp [pub, propertyBit_eq]

/-- Bit 5 of byte 3 is TYPE_REG[5] (R101, R110). -/
theorem safe_iff (w : Word) : safe w = true ↔ w.getLsbD 5 = true := by
  simp [safe, propertyBit_eq]

theorem readsProperty_typeIspub : ReadsProperty .typeIspub pub := fun _ => rfl

theorem readsProperty_typeIssafe : ReadsProperty .typeIssafe safe := fun _ => rfl

/-- Settles O37: the property bit of byte 1 is TYPE_REG[21]. -/
theorem typeIspubRule : Obligations.TypeIspubRule :=
  ⟨decode_typeIspub_iff, fun _ w h => readsProperty_typeIspub.exec_eq_ite h (pub_iff w),
    fun _ h => exec_typeReader_of_unloaded rfl h,
    readsProperty_typeIspub.foldWords_typeLoad_both (w := 0x49444154#32) (w' := 0x72755374#32)
      (by decide) (by decide)⟩

/-- Settles O39: the property bit of byte 3 is TYPE_REG[5]. -/
theorem typeIssafeRule : Obligations.TypeIssafeRule :=
  ⟨decode_typeIssafe_iff, fun _ w h => readsProperty_typeIssafe.exec_eq_ite h (safe_iff w),
    fun _ h => exec_typeReader_of_unloaded rfl h,
    readsProperty_typeIssafe.foldWords_typeLoad_both (w := 0x72755374#32) (w' := 0x49454E44#32)
      (by decide) (by decide)⟩

/-- Settles O29: bit 7 set is a byte from 0x80. -/
theorem alphabeticBytes : Obligations.AlphabeticBytes := by
  refine ⟨alpha_iff_toNat, fun b hb => alpha_eq_false_of_neighbour_or_high (.inr ?high),
    by decide, by decide, by decide, by decide⟩
  case high =>
    have hmsb : b.msb = true := by rw [BitVec.msb_eq_getLsbD_last, hb]
    have htwice := BitVec.msb_eq_true_iff_two_mul_ge.mp hmsb
    refine BitVec.le_def.mpr (?_ : 0x80 ≤ b.toNat)
    omega

/-- R111: among the letters, bit 5 is set in the lower-case ones alone. -/
theorem getLsbD_five_of_alpha {b : Byte} (h : alpha b = true) : b.getLsbD 5 = true ↔ 0x61 ≤ b.toNat := by
  rw [alpha_iff_toNat] at h
  rw [BitVec.getLsbD, Nat.testBit_eq_decide_div_mod_eq, decide_eq_true_eq]
  omega

theorem not_getLsbD_five_of_alpha {b : Byte} (h : alpha b = true) : (!b.getLsbD 5) = true ↔ b.toNat ≤ 0x5A := by
  rw [Bool.not_eq_true', ← Bool.not_eq_true, getLsbD_five_of_alpha h]
  rw [alpha_iff_toNat] at h
  omega

/-- Settles O41: each property is bit 5 of its letter or the complement of that bit. -/
theorem letterCaseProperties : Obligations.LetterCaseProperties := by
  refine ⟨fun b h => ?bytes, fun w h => ?code⟩
  case bytes =>
    have hnum := (alpha_iff_toNat b).mp h
    have hset := getLsbD_five_of_alpha h
    have hclear := not_getLsbD_five_of_alpha h
    rw [Bool.not_eq_true'] at hclear
    exact ⟨hclear.trans (by omega), hset.trans (by omega)⟩
  case code =>
    have hrsvok : rsvok w = true ↔ (typeByte w 2).toNat ≤ 0x5A := not_getLsbD_five_of_alpha (h 2)
    have hvalid : valid w = rsvok w := valid_of_allAlpha ((allAlpha_iff w).mpr h)
    exact ⟨not_getLsbD_five_of_alpha (h 0), not_getLsbD_five_of_alpha (h 1), hrsvok, hvalid ▸ hrsvok,
      getLsbD_five_of_alpha (h 3)⟩

/-- A letter with bit 5 as given (R111). -/
def letter (lower : Bool) : Byte := if lower then 0x61#8 else 0x41#8

@[simp] theorem alpha_letter (lower : Bool) : alpha (letter lower) = true := by cases lower <;> decide

@[simp] theorem getElem_letter (lower : Bool) : (letter lower)[5] = lower := by cases lower <;> decide

/-- Settles O42: the property bits are TYPE_REG's own, and four letters of any cases make an alphabetic code. -/
theorem propertyCombinations : Obligations.PropertyCombinations := by
  refine ⟨fun w w' => ⟨fun h => ?crit, fun h => ?pub, fun h => ?rsvok, fun h => ?safe⟩,
    fun w w' hw hw' h => ?valid, fun a b c d => ?combination⟩
  case crit => rw [Bool.eq_iff_iff, crit_iff, crit_iff, h]
  case pub => rw [Bool.eq_iff_iff, pub_iff, pub_iff, h]
  case rsvok => rw [Bool.eq_iff_iff, rsvok_iff, rsvok_iff, h]
  case safe => rw [Bool.eq_iff_iff, safe_iff, safe_iff, h]
  case valid => rw [valid_of_allAlpha hw, valid_of_allAlpha hw', Bool.eq_iff_iff, rsvok_iff, rsvok_iff, h]
  case combination =>
    have halpha : allAlpha (typeWord (letter !a) (letter !b) (letter !c) (letter d)) = true := by
      simp [allAlpha_typeWord]
    exact ⟨_, (allAlpha_iff _).mp halpha, by simp [crit, propertyBit], by simp [pub, propertyBit],
      by simp [rsvok, propertyBit], by simp [safe, propertyBit]⟩

end Sys2Proof.Machine
end
section
/-! SUPPORT. The assembler's reader of literals and comments (30 R71, R72): which stretches of a text hold no separator,
from where they begin to where they end. -/

namespace Sys2Proof.Machine

/-- Read from `mode` and before `rest`, the text holds no separator outside literals, and ends in `mode'`. -/
def Passes (sep : Byte) (mode mode' : QuoteMode) (t rest : List Byte) : Prop :=
  ∀ cur, splitOutside sep mode cur (t ++ rest) = splitOutside sep mode' (t.reverse ++ cur) rest

section
variable {sep : Byte} {mode mode' mode'' : QuoteMode} {t t' rest : List Byte}

theorem passes_nil : Passes sep mode mode [] rest := fun _ => rfl

theorem Passes.append (h : Passes sep mode mode' t (t' ++ rest)) (h' : Passes sep mode' mode'' t' rest) :
    Passes sep mode mode'' (t ++ t') rest := by
  intro cur
  rw [List.append_assoc, h, h', List.reverse_append, List.append_assoc]

theorem passes_cons {c : Byte} (hc : mode ≠ .plain ∨ c ≠ sep)
    (h : Passes sep (nextMode mode c (t ++ rest)) mode' t rest) : Passes sep mode mode' (c :: t) rest := by
  intro cur
  have hnot : ¬ (mode = .plain ∧ c = sep) := by
    rintro ⟨hmode, hsep⟩
    exact hc.elim (fun hne => hne hmode) fun hne => hne hsep
  rw [List.cons_append, splitOutside, if_neg hnot, h, List.reverse_cons, List.append_assoc, List.singleton_append]

theorem passes_plain (h : ∀ c ∈ t, c ≠ sep ∧ c ≠ chQuote ∧ c ≠ chDoubleQuote) : Passes sep .plain .plain t rest := by
  induction t with
  | nil => exact passes_nil
  | cons c t ih =>
    obtain ⟨⟨hsep, hquote, hdouble⟩, ht⟩ := List.forall_mem_cons.mp h
    refine passes_cons (.inr hsep) ?_
    rw [nextMode, if_neg hquote, if_neg hdouble]
    exact ih ht

theorem passes_string (h : ∀ c ∈ t, c ≠ chDoubleQuote ∧ c ≠ chBackslash) : Passes sep .string .string t rest := by
  induction t with
  | nil => exact passes_nil
  | cons c t ih =>
    obtain ⟨⟨hdouble, hback⟩, ht⟩ := List.forall_mem_cons.mp h
    refine passes_cons (.inl QuoteMode.noConfusion) ?_
    rw [nextMode, if_neg hdouble, if_neg hback]
    exact ih ht

/-- A literal's characters are counted, not looked at. -/
theorem passes_literal {n : Nat} (h : t.length = n + 1) : Passes sep (.literal n) .plain t rest := by
  induction n generalizing t with
  | zero =>
    obtain ⟨c, rfl⟩ := List.length_eq_one_iff.mp h
    exact passes_cons (.inl QuoteMode.noConfusion) passes_nil
  | succ n ih =>
    obtain ⟨c, t, rfl⟩ := List.exists_cons_of_length_eq_add_one h
    exact passes_cons (.inl QuoteMode.noConfusion) (ih (Nat.succ.inj h))

/-- A string in its quotes (R72). -/
theorem passes_doubleQuoted (hsep : chDoubleQuote ≠ sep) (h : ∀ c ∈ t, c ≠ chDoubleQuote ∧ c ≠ chBackslash) :
    Passes sep .plain .plain (chDoubleQuote :: (t ++ [chDoubleQuote])) rest :=
  passes_cons (.inr hsep) ((passes_string h).append (passes_cons (.inl QuoteMode.noConfusion) passes_nil))

/-- A literal in its apostrophes, from the number of characters that its first apostrophe announces (R72). -/
theorem passes_quoted (hsep : chQuote ≠ sep) (h : literalMode (t ++ chQuote :: rest) = .literal t.length) :
    Passes sep .plain .plain (chQuote :: (t ++ [chQuote])) rest := by
  refine passes_cons (.inr hsep) ?_
  rw [List.append_assoc, List.singleton_append, nextMode, if_pos rfl, h]
  exact passes_literal (by simp)

theorem splitOutside_of_passes_nil (h : Passes sep .plain mode t []) : splitOutside sep .plain [] t = [t] := by
  have hsplit := h []
  rw [List.append_nil, List.append_nil] at hsplit
  rw [hsplit, splitOutside, List.reverse_reverse]

theorem splitOutside_of_passes_cons (h : Passes sep .plain .plain t (sep :: rest)) :
    splitOutside sep .plain [] (t ++ sep :: rest) = t :: splitOutside sep .plain [] rest := by
  rw [h, splitOutside, if_pos ⟨rfl, rfl⟩, List.append_nil, List.reverse_reverse]

end

/-- What may follow the last operand on a line: nothing, or a comment after a space. -/
def LineTail (tail : List Byte) : Prop := tail = [] ∨ ∃ note, tail = chSpace :: chSemicolon :: note

/-- R71: the comment is cut off, up to its semicolon. -/
theorem stripComment_of_passes {t tail : List Byte} (htail : LineTail tail)
    (h : Passes chSemicolon .plain .plain t tail) :
    ∃ post, (∀ c ∈ post, isSpace c = true) ∧ stripComment (t ++ tail) = t ++ post := by
  obtain rfl | ⟨note, rfl⟩ := htail
  · exact ⟨[], by simp, by rw [stripComment, List.append_nil, splitOutside_of_passes_nil h]; simp⟩
  · have hspace : Passes chSemicolon .plain .plain [chSpace] (chSemicolon :: note) := passes_plain (by decide)
    have hsplit := splitOutside_of_passes_cons (Passes.append (t' := [chSpace]) h hspace)
    rw [List.append_assoc, List.singleton_append] at hsplit
    exact ⟨[chSpace], by decide, by rw [stripComment, hsplit]; rfl⟩

end Sys2Proof.Machine
end

section
/-! SUPPORT. One line of text (R71): the mnemonic, a space, the operands, and perhaps a comment. -/

namespace Sys2Proof.Machine

/-- A text with no white space at either end. -/
def Bare (t : List Byte) : Prop :=
  (∃ c u, t = c :: u ∧ isSpace c = false) ∧ ∃ u c, t = u ++ [c] ∧ isSpace c = false

theorem bare_cons_concat {a z : Byte} (ha : isSpace a = false) (hz : isSpace z = false) (t : List Byte) :
    Bare (a :: (t ++ [z])) := ⟨⟨a, t ++ [z], rfl, ha⟩, a :: t, z, rfl, hz⟩

theorem trimText_of_bare {pre t post : List Byte} (hpre : ∀ c ∈ pre, isSpace c = true) (ht : Bare t)
    (hpost : ∀ c ∈ post, isSpace c = true) : trimText (pre ++ t ++ post) = t := by
  obtain ⟨⟨a, u, hhead, ha⟩, v, z, hlast, hz⟩ := ht
  have hleft : (pre ++ t ++ post).dropWhile isSpace = t ++ post := by
    rw [List.append_assoc, List.dropWhile_append_of_pos hpre, hhead, List.cons_append,
      List.dropWhile_cons_of_neg (by simp [ha])]
  have hright : (t ++ post).reverse.dropWhile isSpace = t.reverse := by
    rw [List.reverse_append, List.dropWhile_append_of_pos (by simpa using hpost), hlast, List.reverse_append,
      List.reverse_singleton, List.singleton_append, List.dropWhile_cons_of_neg (by simp [hz])]
  rw [trimText, hleft, hright, List.reverse_reverse]

/-- A mnemonic's characters: no white space, no semicolon and no quotes. -/
abbrev IsName (mnemonic : List Byte) : Prop :=
  mnemonic ≠ [] ∧ ∀ c ∈ mnemonic, isSpace c = false ∧ c ≠ chSemicolon ∧ c ≠ chQuote ∧ c ≠ chDoubleQuote

theorem isSpace_chSpace : isSpace chSpace = true := by decide

theorem trimText_space_cons {operand : List Byte} (hop : Bare operand) : trimText (chSpace :: operand) = operand := by
  simpa using trimText_of_bare (pre := [chSpace]) (post := []) (by decide) hop (by simp)

section
variable {mnemonic operand : List Byte} (hname : IsName mnemonic)
include hname

theorem passes_command {tail : List Byte} (hpass : Passes chSemicolon .plain .plain operand tail) :
    Passes chSemicolon .plain .plain (mnemonic ++ chSpace :: operand) tail := by
  obtain ⟨-, hchars⟩ := hname
  have hspace : Passes chSemicolon .plain .plain (chSpace :: operand) tail :=
    Passes.append (t := [chSpace]) (passes_plain (by decide)) hpass
  exact (passes_plain fun c hc => (hchars c hc).2).append hspace

theorem bare_command (hop : Bare operand) : Bare (mnemonic ++ chSpace :: operand) := by
  obtain ⟨hne, hchars⟩ := hname
  obtain ⟨-, u, z, rfl, hz⟩ := hop
  obtain ⟨c, cs, rfl⟩ := List.exists_cons_of_ne_nil hne
  exact ⟨⟨c, _, rfl, (hchars c (by simp)).1⟩, c :: cs ++ chSpace :: u, z, by simp, hz⟩

/-- The mnemonic ends at the first white space. -/
theorem takeWhile_command :
    (mnemonic ++ chSpace :: operand).takeWhile (fun c => !isSpace c) = mnemonic ∧
      (mnemonic ++ chSpace :: operand).dropWhile (fun c => !isSpace c) = chSpace :: operand := by
  obtain ⟨-, hchars⟩ := hname
  have hall : ∀ c ∈ mnemonic, (!isSpace c) = true := fun c hc => by rw [(hchars c hc).1, Bool.not_false]
  have hstop : ¬ (!isSpace chSpace) = true := by decide
  rw [List.takeWhile_append_of_pos hall, List.takeWhile_cons_of_neg (p := fun c => !isSpace c) hstop, List.append_nil,
    List.dropWhile_append_of_pos hall, List.dropWhile_cons_of_neg (p := fun c => !isSpace c) hstop]
  exact ⟨rfl, rfl⟩

/-- A line is read as its mnemonic and its operand text, with a comment or without one. -/
theorem assembleLine_eq {tail : List Byte} (hop : Bare operand) (htail : LineTail tail)
    (hpass : Passes chSemicolon .plain .plain operand tail) :
    assembleLine (mnemonic ++ chSpace :: operand ++ tail) = (readCommand mnemonic operand).map assemble := by
  obtain ⟨post, hpost, hstrip⟩ := stripComment_of_passes htail (passes_command hname hpass)
  have htrim : trimText (stripComment (mnemonic ++ chSpace :: operand ++ tail)) = mnemonic ++ chSpace :: operand := by
    rw [hstrip]
    simpa using trimText_of_bare (pre := []) (by simp) (bare_command hname hop) hpost
  obtain ⟨htake, hdrop⟩ := takeWhile_command hname (operand := operand)
  have hne : (mnemonic ++ chSpace :: operand).isEmpty = false := by simp
  simp only [assembleLine, htrim, hne, Bool.false_eq_true, if_false, htake, hdrop, trimText_space_cons hop]

end

end Sys2Proof.Machine
end

section
/-! SUPPORT. The operands in quotes (R72), and the lines that hold them. -/

namespace Sys2Proof.Machine

theorem readCommand_typeLoads (c : Byte) (t : List Byte) :
    readCommand (ascii "type.loads") (c :: t) = (stringLiteral (c :: t)).map .typeLoads := rfl

theorem readCommand_crc32 (c : Byte) (t : List Byte) :
    readCommand (ascii "crc32") (c :: t) = (stringLiteral (c :: t)).map .crc32 := rfl

theorem readCommand_crcByte (c : Byte) (t : List Byte) :
    readCommand (ascii "crc.byte") (c :: t) = (imm8 (c :: t)).map .crcByte := rfl

theorem readCommand_crcBytes (c : Byte) (t : List Byte) :
    readCommand (ascii "crc.bytes") (c :: t) = (bytesOperand (c :: t)).map .crcBytes := rfl

theorem readCommand_typeLoad (c : Byte) (t : List Byte) :
    readCommand (ascii "type.load") (c :: t) = (typeLiteral (c :: t)).map .typeLoad := rfl

theorem stringLiteral_doubleQuoted {str : List Byte} (h : ∀ c ∈ str, c ≠ chDoubleQuote ∧ c ≠ chBackslash) :
    stringLiteral (chDoubleQuote :: (str ++ [chDoubleQuote])) = some str := by
  have hbody : stringBody .plain (str ++ [chDoubleQuote]) = some str := by
    induction str with
    | nil => rfl
    | cons c str ih =>
      obtain ⟨⟨hdouble, hback⟩, hstr⟩ := List.forall_mem_cons.mp h
      rw [List.cons_append, stringBody, if_neg hdouble, if_neg hback, ih hstr, Option.map_some]
  rw [stringLiteral, if_pos rfl, hbody]

theorem quotedText_quoted (body : List Byte) : quotedText (chQuote :: (body ++ [chQuote])) = some body := by
  simp [quotedText]

theorem bare_doubleQuoted (str : List Byte) : Bare (chDoubleQuote :: (str ++ [chDoubleQuote])) :=
  bare_cons_concat (by decide) (by decide) str

theorem bare_quoted (body : List Byte) : Bare (chQuote :: (body ++ [chQuote])) :=
  bare_cons_concat (by decide) (by decide) body

/-- A line with a string operand: the string's bytes are the operand, whatever separators stand among them. -/
theorem assembleLine_doubleQuoted {mnemonic str tail : List Byte} (hname : IsName mnemonic) (htail : LineTail tail)
    (hstr : ∀ c ∈ str, c ≠ chDoubleQuote ∧ c ≠ chBackslash) :
    assembleLine (mnemonic ++ chSpace :: chDoubleQuote :: (str ++ [chDoubleQuote]) ++ tail) =
      (readCommand mnemonic (chDoubleQuote :: (str ++ [chDoubleQuote]))).map assemble :=
  assembleLine_eq hname (bare_doubleQuoted str) htail (passes_doubleQuoted (by decide) hstr)

theorem lineTail_note : LineTail (ascii " ; note") := .inr ⟨ascii " note", by decide⟩

/-- Settles O50: the line is its mnemonic, its quoted string and perhaps a comment, and the string is read whole. -/
theorem stringOperandText : Obligations.StringOperandText := by
  intro str hstr
  refine ⟨?loads, ?crc32⟩
  case loads =>
    have hline := assembleLine_doubleQuoted (mnemonic := ascii "type.loads") (by decide) (.inl rfl) hstr
    rw [readCommand_typeLoads, stringLiteral_doubleQuoted hstr] at hline
    have hopen : ascii "type.loads \"" = ascii "type.loads" ++ [chSpace, chDoubleQuote] := by decide
    have hclose : ascii "\"" = [chDoubleQuote] := by decide
    simpa [hopen, hclose] using hline
  case crc32 =>
    have hline := assembleLine_doubleQuoted (mnemonic := ascii "crc32") (by decide) lineTail_note hstr
    rw [readCommand_crc32, stringLiteral_doubleQuoted hstr] at hline
    have hopen : ascii "crc32 \"" = ascii "crc32" ++ [chSpace, chDoubleQuote] := by decide
    have hclose : ascii "\" ; note" = chDoubleQuote :: ascii " ; note" := by decide
    simpa [hopen, hclose] using hline

/-- The literal `'c'` (R72), whatever byte c is. -/
theorem passes_charLiteral {sep : Byte} (hsep : chQuote ≠ sep) (c : Byte) {rest : List Byte}
    (hrest : endsOperand rest = true) : Passes sep .plain .plain [chQuote, c, chQuote] rest := by
  have hmode : literalMode (c :: chQuote :: rest) = .literal 1 := if_pos ⟨rfl, hrest⟩
  exact passes_quoted (t := [c]) hsep hmode

/-- The literal `'ABCD'` (R72), where it does not begin with a one-character literal. -/
theorem passes_typeLiteral {sep : Byte} (hsep : chQuote ≠ sep) {c0 c1 c2 c3 : Byte} {rest : List Byte}
    (h : ¬ (c1 = chQuote ∧ endsOperand [c2] = true)) :
    Passes sep .plain .plain [chQuote, c0, c1, c2, c3, chQuote] rest := by
  have hshort : ¬ (c1 = chQuote ∧ endsOperand (c2 :: c3 :: chQuote :: rest) = true) := h
  have hmode : literalMode (c0 :: c1 :: c2 :: c3 :: chQuote :: rest) = .literal 4 := by
    rw [literalMode, if_neg hshort, if_pos rfl]
  exact passes_quoted (t := [c0, c1, c2, c3]) hsep hmode

theorem imm8_charLiteral (c : Byte) : imm8 [chQuote, c, chQuote] = some c := by
  have hbody : quotedText [chQuote, c, chQuote] = some [c] := quotedText_quoted [c]
  rw [imm8, hbody]
  rfl

theorem typeLiteral_quoted (c0 c1 c2 c3 : Byte) :
    typeLiteral [chQuote, c0, c1, c2, c3, chQuote] = some (typeWord c0 c1 c2 c3) := by
  have hbody : quotedText [chQuote, c0, c1, c2, c3, chQuote] = some [c0, c1, c2, c3] :=
    quotedText_quoted [c0, c1, c2, c3]
  rw [typeLiteral, hbody]

theorem bytesOperand_charLiteral_one (c : Byte) :
    bytesOperand ([chQuote, c, chQuote] ++ ascii ", 1") = some [c, 0x01#8] := by
  have hcomma : ascii ", 1" = chComma :: ascii " 1" := by decide
  have hnot : stringLiteral ([chQuote, c, chQuote] ++ ascii ", 1") = none := by
    rw [List.cons_append, stringLiteral, if_neg (by decide)]
  have hone : splitOutside chComma .plain [] (ascii " 1") = [ascii " 1"] := by decide
  have hread : imm8 (trimText (ascii " 1")) = some 0x01#8 := by decide
  have htrim : trimText [chQuote, c, chQuote] = [chQuote, c, chQuote] := by
    simpa using trimText_of_bare (pre := []) (post := []) (by simp) (bare_quoted [c]) (by simp)
  rw [bytesOperand, hnot, hcomma, splitOutside_of_passes_cons (passes_charLiteral (by decide) c (by decide)), hone]
  simp [readAll, htrim, imm8_charLiteral, hread]

/-- Settles O54: each line is its mnemonic, its literals, and a comment or one more byte. -/
theorem quotedOperandText : Obligations.QuotedOperandText := by
  have hnote : ascii "' ; note" = chQuote :: ascii " ; note" := by decide
  refine ⟨fun c => ⟨?byte, ?bytes⟩, fun c0 c1 c2 c3 h => ?type⟩
  case byte =>
    have hline := assembleLine_eq (mnemonic := ascii "crc.byte") (by decide) (bare_quoted [c]) lineTail_note
      (passes_charLiteral (by decide) c (by decide))
    have hread : readCommand (ascii "crc.byte") (chQuote :: ([c] ++ [chQuote])) = some (.crcByte c) := by
      rw [readCommand_crcByte, List.singleton_append, imm8_charLiteral, Option.map_some]
    have hopen : ascii "crc.byte '" = ascii "crc.byte" ++ [chSpace, chQuote] := by decide
    rw [hread] at hline
    simpa [hopen, hnote] using hline
  case bytes =>
    have hbare : Bare ([chQuote, c, chQuote] ++ ascii ", 1") :=
      bare_cons_concat (z := 0x31#8) (by decide) (by decide) ([c, chQuote] ++ ascii ", ")
    have hpass : Passes chSemicolon .plain .plain ([chQuote, c, chQuote] ++ ascii ", 1") [] :=
      (passes_charLiteral (by decide) c (by decide)).append (passes_plain (by decide))
    have hline := assembleLine_eq (mnemonic := ascii "crc.bytes") (by decide) hbare (.inl rfl) hpass
    have hread : readCommand (ascii "crc.bytes") ([chQuote, c, chQuote] ++ ascii ", 1") =
        some (.crcBytes [c, 0x01#8]) :=
      congrArg (Option.map AsmLine.crcBytes) (bytesOperand_charLiteral_one c)
    have hopen : ascii "crc.bytes '" = ascii "crc.bytes" ++ [chSpace, chQuote] := by decide
    have hclose : ascii "', 1" = chQuote :: ascii ", 1" := by decide
    rw [hread] at hline
    simpa [hopen, hclose] using hline
  case type =>
    have hline := assembleLine_eq (mnemonic := ascii "type.load") (by decide) (bare_quoted [c0, c1, c2, c3])
      lineTail_note (passes_typeLiteral (by decide) h)
    have hread : readCommand (ascii "type.load") (chQuote :: ([c0, c1, c2, c3] ++ [chQuote])) =
        some (.typeLoad (typeWord c0 c1 c2 c3)) :=
      congrArg (Option.map AsmLine.typeLoad) (typeLiteral_quoted c0 c1 c2 c3)
    have hopen : ascii "type.load '" = ascii "type.load" ++ [chSpace, chQuote] := by decide
    rw [hread] at hline
    simpa [hopen, hnote] using hline

end Sys2Proof.Machine
end
